-- ==== Sys2Proof/Word.lean ====
section
/-!
DEFINITION. The words of the machine: bytes, 16-bit words, 12-bit addresses, register indexes.
Rules: 10_state.md R20, R23, R24; 30_encoding.md R71.
-/

namespace Sys2Proof

/-- A value of a V register, a timer or a memory cell (R20, R27, R50). -/
abbrev Byte := BitVec 8

/-- `I`, `pc`, a stack entry, or an instruction word (R23, R24, R26, R70). -/
abbrev Word := BitVec 16

/-- The field NNN of an instruction word, `w[11:0]` (R71). -/
abbrev Addr12 := BitVec 12

/-- The field N of an instruction word, `w[3:0]` (R71). -/
abbrev Nibble := BitVec 4

/-- The number of a V register, or of a logical key (R20, R28). -/
abbrev RegIx := Fin 16

end Sys2Proof
end

