-- ==== Sys2Proof/Syntax.lean ====
section
/-!
DEFINITION. The instructions: one constructor per row of spec/opcode_table.json.
Rules: 30_encoding.md R71, R74 (the opcode map), 40_cycle.md R97 (the fallback row).
-/

namespace Sys2Proof

/-- An instruction. `x` and `y` are register numbers, `nn` the immediate byte, `nnn` the 12-bit address, `n` the count
(R71); each docstring gives the row's pattern, which is its canonical name (R80). -/
inductive Instr where
  /-- `00E0`, clear the framebuffer (R112). -/
  | cls
  /-- `00EE`, return (R113). -/
  | ret
  /-- `1NNN`, jump (R114). -/
  | jp (nnn : Addr12)
  /-- `2NNN`, call (R115). -/
  | call (nnn : Addr12)
  /-- `3XNN`, skip if V[X] = NN (R116). -/
  | seImm (x : RegIx) (nn : Byte)
  /-- `4XNN`, skip if V[X] ≠ NN (R117). -/
  | sneImm (x : RegIx) (nn : Byte)
  /-- `5XY0`, skip if V[X] = V[Y] (R118). -/
  | seReg (x y : RegIx)
  /-- `6XNN`, load immediate (R119). -/
  | ldImm (x : RegIx) (nn : Byte)
  /-- `7XNN`, add immediate (R120). -/
  | addImm (x : RegIx) (nn : Byte)
  /-- `8XY0`, copy (R142). -/
  | ldReg (x y : RegIx)
  /-- `8XY1`, OR (R143). -/
  | orReg (x y : RegIx)
  /-- `8XY2`, AND (R144). -/
  | andReg (x y : RegIx)
  /-- `8XY3`, XOR (R145). -/
  | xorReg (x y : RegIx)
  /-- `8XY4`, add with carry out (R146). -/
  | addReg (x y : RegIx)
  /-- `8XY5`, V[X] − V[Y] (R147). -/
  | subReg (x y : RegIx)
  /-- `8XY6`, V[Y] shifted right into V[X] (R148). -/
  | shr (x y : RegIx)
  /-- `8XY7`, V[Y] − V[X] (R149). -/
  | subn (x y : RegIx)
  /-- `8XYE`, V[Y] shifted left into V[X] (R150). -/
  | shl (x y : RegIx)
  /-- `9XY0`, skip if V[X] ≠ V[Y] (R170). -/
  | sneReg (x y : RegIx)
  /-- `ANNN`, load I (R171). -/
  | ldI (nnn : Addr12)
  /-- `BNNN`, jump to NNN + V0 (R172). -/
  | jpV0 (nnn : Addr12)
  /-- `CXNN`, random AND immediate (R173). -/
  | rnd (x : RegIx) (nn : Byte)
  /-- `DXYN`, draw a sprite (R174). -/
  | drw (x y : RegIx) (n : Nibble)
  /-- `EX9E`, skip if key V[X] is pressed (R200). -/
  | skp (x : RegIx)
  /-- `EXA1`, skip if key V[X] is not pressed (R201). -/
  | sknp (x : RegIx)
  /-- `FX07`, read the delay timer (R203). -/
  | ldVxDT (x : RegIx)
  /-- `FX0A`, wait for a key (R207). -/
  | ldVxK (x : RegIx)
  /-- `FX15`, set the delay timer (R204). -/
  | ldDTVx (x : RegIx)
  /-- `FX18`, set the sound timer (R205). -/
  | ldSTVx (x : RegIx)
  /-- `FX1E`, add V[X] to I (R206). -/
  | addI (x : RegIx)
  /-- `FX29`, point I at a glyph (R208). -/
  | ldF (x : RegIx)
  /-- `FX33`, store the decimal digits of V[X] (R209). -/
  | ldB (x : RegIx)
  /-- `FX55`, store V0..VX (R210). -/
  | stRegs (x : RegIx)
  /-- `FX65`, load V0..VX (R211). -/
  | ldRegs (x : RegIx)
  /-- The fallback row `NOP_UNRECOGNIZED`: the word `w`, which matches no other row (R97). -/
  | nop (w : Word)
  deriving DecidableEq, Repr

end Sys2Proof
end

