-- ==== Sys2Proof/WellFormed.lean ====
section
/-!
DEFINITION. The opcode table as mask and match pairs, and well-formed instructions.
Rules: spec/opcode_table.json, 30_encoding.md R74–R77. Every operand field has the type of its width, so the one thing an
instruction term can get wrong is a fallback row that carries a recognized word.
-/

namespace Sys2Proof

/-- One row of spec/opcode_table.json: a word `w` matches it when `w &&& mask = pattern`. -/
structure OpRow where
  mask : Word
  pattern : Word
  deriving DecidableEq, Repr

namespace OpRow

/-- `w` has the row's fixed digits (R76). -/
def covers (row : OpRow) (w : Word) : Bool := w &&& row.mask == row.pattern

/-- No word matches both rows: their fixed digits differ at a place both fix. -/
def apart (a b : OpRow) : Bool := a.pattern &&& b.mask != b.pattern &&& a.mask

end OpRow

/-- The rows of families 0x0 to 0x7 (R74). -/
def opRows0to7 : List OpRow :=
  [⟨0xFFFF, 0x00E0⟩, ⟨0xFFFF, 0x00EE⟩, ⟨0xF000, 0x1000⟩, ⟨0xF000, 0x2000⟩, ⟨0xF000, 0x3000⟩, ⟨0xF000, 0x4000⟩,
   ⟨0xF00F, 0x5000⟩, ⟨0xF000, 0x6000⟩, ⟨0xF000, 0x7000⟩]

/-- The rows of family 0x8 (R74). -/
def opRows8 : List OpRow :=
  [⟨0xF00F, 0x8000⟩, ⟨0xF00F, 0x8001⟩, ⟨0xF00F, 0x8002⟩, ⟨0xF00F, 0x8003⟩, ⟨0xF00F, 0x8004⟩, ⟨0xF00F, 0x8005⟩,
   ⟨0xF00F, 0x8006⟩, ⟨0xF00F, 0x8007⟩, ⟨0xF00F, 0x800E⟩]

/-- The rows of families 0x9 to 0xD (R74). -/
def opRows9toD : List OpRow :=
  [⟨0xF00F, 0x9000⟩, ⟨0xF000, 0xA000⟩, ⟨0xF000, 0xB000⟩, ⟨0xF000, 0xC000⟩, ⟨0xF000, 0xD000⟩]

/-- The rows of families 0xE and 0xF (R74). -/
def opRowsEF : List OpRow :=
  [⟨0xF0FF, 0xE09E⟩, ⟨0xF0FF, 0xE0A1⟩, ⟨0xF0FF, 0xF007⟩, ⟨0xF0FF, 0xF00A⟩, ⟨0xF0FF, 0xF015⟩, ⟨0xF0FF, 0xF018⟩,
   ⟨0xF0FF, 0xF01E⟩, ⟨0xF0FF, 0xF029⟩, ⟨0xF0FF, 0xF033⟩, ⟨0xF0FF, 0xF055⟩, ⟨0xF0FF, 0xF065⟩]

/-- The 34 instruction rows of the opcode map (R74). -/
def opRows : List OpRow := opRows0to7 ++ opRows8 ++ opRows9toD ++ opRowsEF

/-- Some instruction row matches the word; otherwise it is unrecognized (R77). -/
def recognized (w : Word) : Bool := opRows.any (·.covers w)

/-- Well-formed instructions: the fallback row stands only for an unrecognized word (R97). Every other term is one. -/
def WellFormed : Instr → Bool
  | .nop w => !recognized w
  | .cls | .ret => true
  | .jp _ | .call _ | .ldI _ | .jpV0 _ => true
  | .seImm _ _ | .sneImm _ _ | .ldImm _ _ | .addImm _ _ | .rnd _ _ => true
  | .seReg _ _ | .sneReg _ _ | .ldReg _ _ | .orReg _ _ | .andReg _ _ | .xorReg _ _ => true
  | .addReg _ _ | .subReg _ _ | .shr _ _ | .subn _ _ | .shl _ _ => true
  | .drw _ _ _ => true
  | .skp _ | .sknp _ | .ldVxDT _ | .ldVxK _ | .ldDTVx _ | .ldSTVx _ => true
  | .addI _ | .ldF _ | .ldB _ | .stRegs _ | .ldRegs _ => true

end Sys2Proof
end

