-- ==== Sys2Proof/Decode.lean ====
section
/-!
DEFINITION. The decoder and the encoder.
Rules: 30_encoding.md R70–R79, 20_memory.md R56 (big-endian instruction words).
-/

namespace Sys2Proof

/-! ## The fields of an instruction word (R71) -/

/-- F = `w[15:12]`, the family. -/
def fieldF (w : Word) : Nibble := w.extractLsb' 12 4

/-- X = `w[11:8]`, a register number. -/
def fieldX (w : Word) : RegIx := (w.extractLsb' 8 4).toFin

/-- Y = `w[7:4]`, a register number. -/
def fieldY (w : Word) : RegIx := (w.extractLsb' 4 4).toFin

/-- N = `w[3:0]`. -/
def fieldN (w : Word) : Nibble := w.extractLsb' 0 4

/-- NN = `w[7:0]`. -/
def fieldNN (w : Word) : Byte := w.extractLsb' 0 8

/-- NNN = `w[11:0]`. -/
def fieldNNN (w : Word) : Addr12 := w.extractLsb' 0 12

/-! ## The decoder (R73: the family first, then the full word, N or NN) -/

/-- Family 0x0, selected on the full word (R75). -/
def decode0 (w : Word) : Instr :=
  match w.toNat with
  | 0x00E0 => .cls
  | 0x00EE => .ret
  | _ => .nop w

/-- Family 0x5, selected on N (R76). -/
def decode5 (w : Word) : Instr :=
  match (fieldN w).toNat with
  | 0x0 => .seReg (fieldX w) (fieldY w)
  | _ => .nop w

/-- Family 0x8, selected on N (R141). -/
def decode8 (w : Word) : Instr :=
  match (fieldN w).toNat with
  | 0x0 => .ldReg (fieldX w) (fieldY w)
  | 0x1 => .orReg (fieldX w) (fieldY w)
  | 0x2 => .andReg (fieldX w) (fieldY w)
  | 0x3 => .xorReg (fieldX w) (fieldY w)
  | 0x4 => .addReg (fieldX w) (fieldY w)
  | 0x5 => .subReg (fieldX w) (fieldY w)
  | 0x6 => .shr (fieldX w) (fieldY w)
  | 0x7 => .subn (fieldX w) (fieldY w)
  | 0xE => .shl (fieldX w) (fieldY w)
  | _ => .nop w

/-- Family 0x9, selected on N (R76). -/
def decode9 (w : Word) : Instr :=
  match (fieldN w).toNat with
  | 0x0 => .sneReg (fieldX w) (fieldY w)
  | _ => .nop w

/-- Family 0xE, selected on NN (R215). -/
def decodeE (w : Word) : Instr :=
  match (fieldNN w).toNat with
  | 0x9E => .skp (fieldX w)
  | 0xA1 => .sknp (fieldX w)
  | _ => .nop w

/-- Family 0xF, selected on NN (R215). -/
def decodeF (w : Word) : Instr :=
  match (fieldNN w).toNat with
  | 0x07 => .ldVxDT (fieldX w)
  | 0x0A => .ldVxK (fieldX w)
  | 0x15 => .ldDTVx (fieldX w)
  | 0x18 => .ldSTVx (fieldX w)
  | 0x1E => .addI (fieldX w)
  | 0x29 => .ldF (fieldX w)
  | 0x33 => .ldB (fieldX w)
  | 0x55 => .stRegs (fieldX w)
  | 0x65 => .ldRegs (fieldX w)
  | _ => .nop w

/-- Decode one instruction word: total, never a failure (R79). -/
def decodeWord (w : Word) : Instr :=
  match (fieldF w).toNat with
  | 0x0 => decode0 w
  | 0x1 => .jp (fieldNNN w)
  | 0x2 => .call (fieldNNN w)
  | 0x3 => .seImm (fieldX w) (fieldNN w)
  | 0x4 => .sneImm (fieldX w) (fieldNN w)
  | 0x5 => decode5 w
  | 0x6 => .ldImm (fieldX w) (fieldNN w)
  | 0x7 => .addImm (fieldX w) (fieldNN w)
  | 0x8 => decode8 w
  | 0x9 => decode9 w
  | 0xA => .ldI (fieldNNN w)
  | 0xB => .jpV0 (fieldNNN w)
  | 0xC => .rnd (fieldX w) (fieldNN w)
  | 0xD => .drw (fieldX w) (fieldY w) (fieldN w)
  | 0xE => decodeE w
  | _ => decodeF w

/-- Why a byte sequence is no instruction. -/
inductive DecodeError where
  /-- Fewer than the two bytes of an instruction are left (DESIGN CHOICE, log entry 15; safe: the machine never decodes
  such a sequence, its fetch checks for two bytes). -/
  | truncated
  deriving DecidableEq, Repr

/-- Two bytes as an instruction word, the high byte first (R56). -/
def wordOfBytes (hi lo : Byte) : Word := hi ++ lo

/-- The high byte of an instruction word, which lies at the lower address (R56). -/
def highByte (w : Word) : Byte := w.extractLsb' 8 8

/-- The low byte of an instruction word (R56). -/
def lowByte (w : Word) : Byte := w.extractLsb' 0 8

/-- Decode the first instruction of a byte sequence and give the bytes after it. -/
def decode : List Byte → Except DecodeError (Instr × List Byte)
  | hi :: lo :: rest => .ok (decodeWord (wordOfBytes hi lo), rest)
  | [_] => .error .truncated
  | [] => .error .truncated

/-- The instruction the decoder reads from an opcode-table word of `nbits` bits, laid out big-endian; the bits above
`nbits` are 0. -/
def decodeTableWord (nbits w : Nat) : Option Instr :=
  let word : Word := BitVec.ofNat 16 (w % 2 ^ nbits)
  match decode [highByte word, lowByte word] with
  | .ok (i, []) => some i
  | .ok (_, _ :: _) => none
  | .error _ => none

/-! ## The encoder (R71, R74) -/

/-- A register number as the four bits of its field. -/
def regBits (r : RegIx) : Nibble := BitVec.ofFin r

/-- A word of format NNN. -/
def packNNN (f : Nibble) (nnn : Addr12) : Word := f ++ nnn

/-- A word of format XNN (and of format X, whose NN is fixed). -/
def packXNN (f : Nibble) (x : RegIx) (nn : Byte) : Word := (f ++ regBits x) ++ nn

/-- A word of format XYN (and of format XY, whose N is fixed). -/
def packXYN (f : Nibble) (x y : RegIx) (n : Nibble) : Word := ((f ++ regBits x) ++ regBits y) ++ n

/-- The word of a well-formed instruction. -/
def encode : Instr → Word
  | .cls => 0x00E0
  | .ret => 0x00EE
  | .jp nnn => packNNN 0x1 nnn
  | .call nnn => packNNN 0x2 nnn
  | .seImm x nn => packXNN 0x3 x nn
  | .sneImm x nn => packXNN 0x4 x nn
  | .seReg x y => packXYN 0x5 x y 0x0
  | .ldImm x nn => packXNN 0x6 x nn
  | .addImm x nn => packXNN 0x7 x nn
  | .ldReg x y => packXYN 0x8 x y 0x0
  | .orReg x y => packXYN 0x8 x y 0x1
  | .andReg x y => packXYN 0x8 x y 0x2
  | .xorReg x y => packXYN 0x8 x y 0x3
  | .addReg x y => packXYN 0x8 x y 0x4
  | .subReg x y => packXYN 0x8 x y 0x5
  | .shr x y => packXYN 0x8 x y 0x6
  | .subn x y => packXYN 0x8 x y 0x7
  | .shl x y => packXYN 0x8 x y 0xE
  | .sneReg x y => packXYN 0x9 x y 0x0
  | .ldI nnn => packNNN 0xA nnn
  | .jpV0 nnn => packNNN 0xB nnn
  | .rnd x nn => packXNN 0xC x nn
  | .drw x y n => packXYN 0xD x y n
  | .skp x => packXNN 0xE x 0x9E
  | .sknp x => packXNN 0xE x 0xA1
  | .ldVxDT x => packXNN 0xF x 0x07
  | .ldVxK x => packXNN 0xF x 0x0A
  | .ldDTVx x => packXNN 0xF x 0x15
  | .ldSTVx x => packXNN 0xF x 0x18
  | .addI x => packXNN 0xF x 0x1E
  | .ldF x => packXNN 0xF x 0x29
  | .ldB x => packXNN 0xF x 0x33
  | .stRegs x => packXNN 0xF x 0x55
  | .ldRegs x => packXNN 0xF x 0x65
  | .nop w => w

/-- The bytes of an instruction in memory order (R56). -/
def encodeBytes (i : Instr) : List Byte := [highByte (encode i), lowByte (encode i)]

end Sys2Proof
end

