-- ==== Sys2Proof/Config.lean ====
section
/-!
DEFINITION. What the spec leaves to the implementation: the two OPEN parameters of 00_scope.md R6 that are fixed for one
machine, and the free byte of CXNN. The default values of the parameters are in Sys2Proof/Machine/Params.lean.
-/

namespace Sys2Proof

/-- The parameters R6 marks OPEN, arguments of the model. State holds one of these and nothing writes it, so a statement
about every state is a statement about every value of the parameters (log entries 2 and 3). -/
structure Config where
  /-- STACK_DEPTH: `some d` for a stack of depth d, `none` for the source's unbounded stack (R26, D5). -/
  stackDepth : Option Nat
  /-- FONT: the 80 bytes load copies to 0x50 (R54, D11). -/
  font : Vector Byte 80
  deriving DecidableEq, Repr

/-- The free byte of CXNN, `draw8()` (R11, R173, R255): the k-th draw of a run. It has no value Lean can see, so a
statement about it holds for every sequence of draws (DESIGN CHOICE of form, log entry 4; safe). -/
opaque Config.draw8 : Nat → Byte

end Sys2Proof
end

