-- ==== Sys2Proof/Machine/Params.lean ====
section
/-!
DEFINITION. The fixed parameters of 00_scope.md R6, and the default values of the OPEN ones.
-/

namespace Sys2Proof.Machine

/-- MEM_SIZE (R6, R50). -/
def memSize : Nat := 4096

/-- LOAD_ADDR, the entry point and the value of pc at reset (R6, R274). -/
def loadAddr : Nat := 0x200

/-- FONT_BASE (R6, R52). -/
def fontBase : Nat := 0x50

/-- FONT_GLYPH_BYTES (R6). -/
def glyphBytes : Nat := 5

/-- MAX_IMAGE, 4096 − 0x200 (R6, R270). -/
def maxImage : Nat := 3584

/-- The default FONT's glyphs 0 to 7. PRESUMED: the spec itself marks these bytes as general knowledge (R54, D11; log
entry 3). Unsafe for a claim about the pixels of a default glyph. -/
def defaultGlyphs0to7 : List Byte :=
  [0xF0, 0x90, 0x90, 0x90, 0xF0] ++ [0x20, 0x60, 0x20, 0x20, 0x70] ++ [0xF0, 0x10, 0xF0, 0x80, 0xF0] ++
  [0xF0, 0x10, 0xF0, 0x10, 0xF0] ++ [0x90, 0x90, 0xF0, 0x10, 0x10] ++ [0xF0, 0x80, 0xF0, 0x10, 0xF0] ++
  [0xF0, 0x80, 0xF0, 0x90, 0xF0] ++ [0xF0, 0x10, 0x20, 0x40, 0x40]

/-- The default FONT's glyphs 8 to F. PRESUMED as `defaultGlyphs0to7`. -/
def defaultGlyphs8toF : List Byte :=
  [0xF0, 0x90, 0xF0, 0x90, 0xF0] ++ [0xF0, 0x90, 0xF0, 0x10, 0xF0] ++ [0xF0, 0x90, 0xF0, 0x90, 0x90] ++
  [0xE0, 0x90, 0xE0, 0x90, 0xE0] ++ [0xF0, 0x80, 0x80, 0x80, 0xF0] ++ [0xE0, 0x90, 0x90, 0x90, 0xE0] ++
  [0xF0, 0x80, 0xF0, 0x80, 0xF0] ++ [0xF0, 0x80, 0xF0, 0x80, 0x80]

/-- The default FONT (R54). -/
def defaultFont : Vector Byte 80 := ⟨⟨defaultGlyphs0to7 ++ defaultGlyphs8toF⟩, rfl⟩

/-- The parameters of the machine at reset: STACK_DEPTH at the source's value, unbounded (R6, D5), and the default FONT
(R54). Nothing rests on either: State holds them as arguments (log entries 2 and 3). -/
def defaultConfig : Config := { stackDepth := none, font := defaultFont }

end Sys2Proof.Machine
end

