-- ==== Sys2Proof/Machine/State.lean ====
section
/-!
DEFINITION. The state of the core, its faults, and its state at reset.
Rules: 10_state.md R20–R39, 60_exceptions.md R240, 70_reset_and_hazards.md R273.
-/

namespace Sys2Proof.Machine

/-- The kinds of error a step can report, the non-zero values of the fault latch (R31, R240). Raising one is a next state
with the latch set (R241), so `step` never answers `Outcome.fault`: the kinds stand in `State.fault` (log entry 1). -/
inductive Fault where
  /-- Raised by the fetch when pc ≥ 4095 (R93). Safe: the machine reports it itself. -/
  | addressOutOfRange
  /-- Raised by 00EE on an empty stack (R113). Safe: the machine reports it itself. -/
  | stackUnderflow
  /-- Raised by 2NNN on a full stack, only where STACK_DEPTH is finite (R115, D5). Safe: no claim reaches past it. -/
  | stackOverflow
  /-- Raised by DXYN, FX33, FX55 and FX65 when a data address is above 4095 (R59, D3). Safe: no claim reaches past it. -/
  | dataAddressOutOfRange
  /-- Raised by EX9E and EXA1 when V[X] > 15 (R202, D4). Safe: no claim reaches past it. -/
  | keyIndexOutOfRange
  deriving DecidableEq, Repr

/-- Why the model could have no meaning for an instruction. Every instruction has its meaning, so nothing raises this. -/
inductive Refusal where
  /-- An instruction without a meaning yet, by its mnemonic. Raised by no arm of `exec`. Safe. -/
  | notModelled (mnemonic : String)
  deriving DecidableEq, Repr

/-- The sixteen V registers (R20). -/
abbrev RegFile := Vector Byte 16

/-- The framebuffer, row-major: 32 rows of 64 pixels, true when on (R29). -/
abbrev Framebuffer := Vector (Vector Bool 64) 32

/-- The keypad: true when the key is down (R28). -/
abbrev Keypad := Vector Bool 16

/-- Memory as a list of cells in canonical form: addresses strictly rising, and no cell equal to what its address reads as
when it is not listed (log entry 5). -/
abbrev Memory := List Host.Cell

/-- Everything the spec gives the core. -/
structure State where
  /-- V0..VF (R20, R21). -/
  v : RegFile
  /-- The index register (R23). -/
  I : Word
  /-- The program counter (R24). -/
  pc : Word
  /-- The call stack, the NEWEST entry first (R26; log entry 8). -/
  stack : List Word
  /-- DT, the delay timer (R27). -/
  dt : Byte
  /-- ST, the sound timer (R27). -/
  st : Byte
  /-- `key[0..15]` (R28). -/
  key : Keypad
  /-- The framebuffer (R29). -/
  fb : Framebuffer
  /-- The key-wait latch's flag (R30). -/
  waiting : Bool
  /-- The key-wait latch's target register (R30). -/
  waitReg : RegIx
  /-- The fault latch, `none` for None (R31). -/
  fault : Option Fault
  /-- The 4096 bytes of memory (R33, R50). -/
  mem : Memory
  /-- The parameters of the machine; nothing writes them (R6, R26, R54). -/
  cfg : Config
  /-- The MODEL's own: how many free bytes CXNN has drawn (R173; log entry 4). -/
  draws : Nat
  deriving DecidableEq, Repr

/-- What one instruction or one step answers. -/
abbrev StepOutcome := Host.Outcome State Fault Refusal

/-- Power-on: the state load leaves for an empty image, every key released (R38, R273). The empty list is memory at its
contents after that load (20_memory.md R52; log entry 5), and `draws` starts at 0 (DESIGN CHOICE, log entry 4). -/
def State.reset : State where
  v := Vector.replicate 16 0
  I := 0
  pc := BitVec.ofNat 16 loadAddr
  stack := []
  dt := 0
  st := 0
  key := Vector.replicate 16 false
  fb := Vector.replicate 32 (Vector.replicate 64 false)
  waiting := false
  waitReg := 0
  fault := none
  mem := []
  cfg := defaultConfig
  draws := 0

end Sys2Proof.Machine
end

