-- ==== Sys2Proof/Machine/Ops.lean ====
section
/-!
DEFINITION. The named operations on the state: registers, memory, the call stack, the framebuffer, the latches, the
fetch, and taking a fault. Every instruction reads and writes the state through these.
-/

namespace Sys2Proof.Machine

/-! ## Memory (20_memory.md) -/

namespace Memory

/-- What an address reads as when no cell lists it: memory as load leaves it for an empty image, the font at 0x50..0x9F
and 0 elsewhere (R52, R273). -/
def initByte (font : Vector Byte 80) (a : Nat) : Byte :=
  if h : fontBase ≤ a ∧ a < fontBase + 80 then font[a - fontBase]'(by omega) else 0

/-- The byte of the first cell that lists `a`. -/
def lookup : Memory → Nat → Option Byte
  | [], _ => none
  | c :: m, a => if c.1 = a then some c.2 else lookup m a

/-- `MemRead(a, 1)` (R9, R62): the last byte written, or the load value. Its callers check `a ≤ 4095` first (R59, R93);
what it answers above that has no meaning (log entry 6). -/
def read (font : Vector Byte 80) (m : Memory) (a : Nat) : Byte := (lookup m a).getD (initByte font a)

/-- Put a cell at its place in rising order, over an older cell for the same address. -/
def insert (a : Nat) (b : Byte) : Memory → Memory
  | [] => [(a, b)]
  | c :: m => if a < c.1 then (a, b) :: c :: m else if a = c.1 then (a, b) :: m else c :: insert a b m

/-- Drop every cell for an address. -/
def erase (a : Nat) : Memory → Memory
  | [] => []
  | c :: m => if c.1 = a then erase a m else c :: erase a m

/-- `MemWrite(a, 1, b)` (R9): a byte equal to what the unlisted address reads as is not listed. Its callers check
`a ≤ 4095` first (R59). -/
def write (font : Vector Byte 80) (m : Memory) (a : Nat) (b : Byte) : Memory :=
  if b = initByte font a then erase a m else insert a b m

/-- `MemWrite` of the bytes of a list to consecutive ascending addresses from `a` (R58). -/
def writeAll (font : Vector Byte 80) (m : Memory) (a : Nat) : List Byte → Memory
  | [] => m
  | b :: bs => writeAll font (write font m a b) (a + 1) bs

/-- The canonical form: addresses strictly rising and below 4096, and no cell that says what its address reads as anyway
(log entry 5). -/
abbrev wf (font : Vector Byte 80) (m : Memory) : Prop :=
  m.Pairwise (fun c d => c.1 < d.1) ∧ ∀ c ∈ m, c.1 < memSize ∧ c.2 ≠ initByte font c.1

end Memory

namespace State

/-- The byte of memory at `a` (R9). -/
def readByte (s : State) (a : Nat) : Byte := Memory.read s.cfg.font s.mem a

/-- The `n` bytes of memory at `a`, `a + 1`, … in ascending order (R58). -/
def readBytes (s : State) (a : Nat) : Nat → List Byte
  | 0 => []
  | n + 1 => s.readByte a :: readBytes s (a + 1) n

/-- Store the bytes of a list at `a`, `a + 1`, … in ascending order (R58). -/
def storeBytes (s : State) (a : Nat) (bs : List Byte) : State :=
  { s with mem := Memory.writeAll s.cfg.font s.mem a bs }

/-! ## Registers (10_state.md) -/

/-- Read V[r] (R20). -/
def readV (s : State) (r : RegIx) : Byte := s.v[r]

/-- Write V[r] (R21): no register is hardwired, VF is a register like the others. -/
def writeV (s : State) (r : RegIx) (b : Byte) : State := { s with v := s.v.set r b }

/-- Write the whole register file at once. -/
def setV (s : State) (v : RegFile) : State := { s with v := v }

/-- Write I (R23). -/
def setI (s : State) (w : Word) : State := { s with I := w }

/-- Write the program counter (R24). -/
def setPc (s : State) (w : Word) : State := { s with pc := w }

/-- Write DT (R27). -/
def setDt (s : State) (b : Byte) : State := { s with dt := b }

/-- Write ST (R27). -/
def setSt (s : State) (b : Byte) : State := { s with st := b }

/-- Write the framebuffer (R29). -/
def setFb (s : State) (fb : Framebuffer) : State := { s with fb := fb }

/-! ## The call stack (R26) -/

/-- The stack holds STACK_DEPTH entries; never so with the source's unbounded depth (R115, D5; log entry 13). -/
def stackFull (s : State) : Bool := s.cfg.stackDepth == some s.stack.length

/-- `push(stack, w)` (R8). -/
def push (s : State) (w : Word) : State := { s with stack := w :: s.stack }

/-- Drop the newest entry of the stack, the other half of `pop(stack)` (R8). -/
def dropTop (s : State) : State := { s with stack := s.stack.tail }

/-! ## The key-wait latch (R30) -/

/-- Set the latch with its target register (R207). -/
def beginWait (s : State) (r : RegIx) : State := { s with waiting := true, waitReg := r }

/-- Clear the latch's flag (R212). -/
def endWait (s : State) : State := { s with waiting := false }

/-! ## The random draw (R11, R173, R255) -/

/-- The free byte the next CXNN draws. -/
def nextDraw (s : State) : Byte := Config.draw8 s.draws

/-- Count one draw as taken, so that the next one is another free byte. -/
def countDraw (s : State) : State := { s with draws := s.draws + 1 }

/-! ## The program counter -/

/-- `pc <- pc + 2`: the advance of the fetch (R94) and the taken skip (R111). -/
def advance (s : State) : State := s.setPc (s.pc + 2)

/-- A skip whose condition is `c` (R111). -/
def skipIf (s : State) (c : Bool) : State := if c then s.advance else s

/-! ## Taking a fault (R241, R242) -/

/-- The state after a fault is taken: K in the latch and nothing else. There is no vector, no saved context and no change
of mode (R241); pc keeps the value it had when the check ran (R11). -/
def withFault (s : State) (k : Fault) : State := { s with fault := some k }

/-- The latch cleared. There is no return-from-trap instruction: only a successful load does this (R245, R271). -/
def clearFault (s : State) : State := { s with fault := none }

/-! ## The fetch (R93) -/

/-- The two bytes at pc and pc + 1 are inside memory: pc < 4095 (R93). -/
def fetchInRange (s : State) : Bool := decide (s.pc.toNat < 4095)

/-- The instruction word at pc, high byte first (R56, R93). -/
def fetchWord (s : State) : Word := wordOfBytes (s.readByte s.pc.toNat) (s.readByte (s.pc.toNat + 1))

end State

/-- `raise K`, the one way an instruction or the fetch takes a fault (R11, R241): the step ends in a next state whose
latch holds K (log entry 1). -/
def raise (k : Fault) (s : State) : StepOutcome := .next (s.withFault k)

/-! ## The framebuffer (R29, R174) -/

namespace Framebuffer

/-- `fb[y][x]` (R8). -/
def pixel (fb : Framebuffer) (x : Fin 64) (y : Fin 32) : Bool := fb[y][x]

/-- Toggle one pixel (R174). -/
def toggle (fb : Framebuffer) (x : Fin 64) (y : Fin 32) : Framebuffer := fb.set y (fb[y].set x (!fb[y][x]))

/-- Every pixel off (R112). -/
def clear : Framebuffer := Vector.replicate 32 (Vector.replicate 64 false)

end Framebuffer

/-- A draw in progress: the framebuffer so far, and whether some pixel went from on to off so far. -/
structure Drawing where
  fb : Framebuffer
  collided : Bool
  deriving DecidableEq, Repr

namespace Drawing

/-- One bit of a sprite at column `c` of row `r`, with the anchor at column `xs` of row `ys`: a 1 toggles the pixel at
the coordinates reduced mod 64 and mod 32, a 0 leaves it (R174, R175). -/
def bit (xs ys r : Nat) (b : Byte) (d : Drawing) (c : Nat) : Drawing :=
  if b.getLsbD (7 - c) then
    let px := Fin.ofNat 64 (xs + c)
    let py := Fin.ofNat 32 (ys + r)
    { fb := d.fb.toggle px py, collided := d.collided || d.fb.pixel px py }
  else d

/-- One row of a sprite: its eight columns, the most significant bit first (R174). -/
def row (xs ys r : Nat) (b : Byte) (d : Drawing) : Drawing := (List.range 8).foldl (bit xs ys r b) d

/-- The rows of a sprite from row `r` on, top first (R174). -/
def rows (xs ys : Nat) : Nat → List Byte → Drawing → Drawing
  | _, [], d => d
  | r, b :: bs, d => rows xs ys (r + 1) bs (row xs ys r b d)

end Drawing

/-- Draw the sprite `bs` on `fb` at the anchor (xs, ys) (R174). -/
def drawSprite (xs ys : Nat) (bs : List Byte) (fb : Framebuffer) : Drawing :=
  Drawing.rows xs ys 0 bs { fb := fb, collided := false }

end Sys2Proof.Machine
end

