-- ==== Sys2Proof/Machine/Operands.lean ====
section
/-!
DEFINITION. Every operand form of the instruction set (30_encoding.md R72, 20_memory.md R59).
A register operand is `State.readV`; NN is used as it stands; the others are here.
-/

namespace Sys2Proof.Machine

/-- `zext_16(NNN)`: the address operand of 1NNN, 2NNN, ANNN and BNNN (R72). -/
def zext16 (nnn : Addr12) : Word := nnn.zeroExtend 16

/-- A byte operand as a 16-bit word, for the sums of BNNN and FX1E (R7). -/
def byteToWord (b : Byte) : Word := b.zeroExtend 16

/-- BNNN's target, NNN + V[0], which 16 bits hold without wrap (R172). -/
def offsetTarget (nnn : Addr12) (v0 : Byte) : Word := zext16 nnn + byteToWord v0

/-- `I + k` as an unbounded natural number (R9, R59). -/
def State.dataAddr (s : State) (k : Nat) : Nat := s.I.toNat + k

/-- The `n` data addresses I..I+n−1 are all at most 4095; with n = 0 there is none to check (R59). -/
def State.dataInRange (s : State) (n : Nat) : Bool := n == 0 || decide (s.dataAddr (n - 1) ≤ 4095)

/-- The addresses I..I+n−1 an instruction touches (R59). -/
def State.dataAddrs (s : State) (n : Nat) : List Nat := (List.range n).map s.dataAddr

/-- How many registers V0..VX there are (R210, R211). -/
def regCount (x : RegIx) : Nat := x.val + 1

/-- The values of V0..VX in order (R210). -/
def State.firstRegs (s : State) (x : RegIx) : List Byte := s.v.toList.take (regCount x)

/-- The register file with V0..VX taken from memory at I..I+X, and the others as they are (R211). -/
def State.regsFromMemory (s : State) (x : RegIx) : RegFile :=
  Vector.ofFn fun r => if r ≤ x then s.readByte (s.dataAddr r.val) else s.readV r

/-- The sprite's anchor column, V[X] mod 64 (R174). -/
def anchorX (vx : Byte) : Nat := vx.toNat % 64

/-- The sprite's anchor row, V[Y] mod 32 (R174). -/
def anchorY (vy : Byte) : Nat := vy.toNat % 32

/-- `key[k]` for a key index held in a byte; none for an index above 15 (R202). -/
def State.keyAt (s : State) (k : Byte) : Option Bool := s.key[k.toNat]?

/-- The lowest pressed key, scanned in ascending order (R212, R214). -/
def State.lowestKey (s : State) : Option RegIx := (List.finRange 16).find? fun k => s.key[k]

/-- FX29's result: the address of the glyph of the low nibble of V[X] (R208). -/
def glyphAddr (vx : Byte) : Word := BitVec.ofNat 16 (fontBase + (vx &&& 0xF).toNat * glyphBytes)

/-- The hundreds, tens and ones digits of a byte (R209). -/
def decimalDigits (b : Byte) : List Byte := [b / 100, b / 10 % 10, b % 10]

end Sys2Proof.Machine
end

