-- ==== Sys2Proof/Machine/Flags.lean ====
section
/-!
DEFINITION. Every flag computation of the instruction set. VF is the only flag (10_state.md R34).
-/

namespace Sys2Proof.Machine

/-- The register VF, V[15] (R8). -/
def VF : RegIx := 15

/-- `(c ? 1 : 0)` as the byte written to VF (R10). -/
def flagByte (c : Bool) : Byte := if c then 1 else 0

/-- 8XY4: the sum is above 255 (R146). -/
def carryOut (a b : Byte) : Bool := decide (a.toNat + b.toNat > 255)

/-- 8XY5 and 8XY7: the subtraction a − b does not borrow, a ≥ b (R147, R149). -/
def notBorrow (a b : Byte) : Bool := decide (a.toNat ≥ b.toNat)

/-- 8XY6: bit 0, which the right shift drops (R148). -/
def lowBit (a : Byte) : Bool := a.getLsbD 0

/-- 8XYE: bit 7, which the left shift drops (R150). -/
def highBit (a : Byte) : Bool := a.getLsbD 7

/-- Write V[X] first and VF last, so that VF ends holding the flag also when X = F (R96, D6). -/
def State.writeWithFlag (s : State) (x : RegIx) (result : Byte) (flag : Bool) : State :=
  (s.writeV x result).writeV VF (flagByte flag)

end Sys2Proof.Machine
end

