-- ==== Sys2Proof/Machine/Family0to7.lean ====
section
/-!
DEFINITION. Families 0x0 to 0x7 (41_family_0_to_7.md), and the fallback row (40_cycle.md R97).
Every meaning runs after the fetch has added 2 to pc (40_cycle.md R94, log entry 7).
-/

namespace Sys2Proof.Machine

/-- `00E0` (R112). -/
def execCls (s : State) : StepOutcome := .next (s.setFb Framebuffer.clear)

/-- `00EE` (R113). -/
def execRet (s : State) : StepOutcome :=
  match s.stack with
  | [] => raise .stackUnderflow s
  | target :: _ => .next (s.dropTop.setPc target)

/-- `1NNN` (R114). -/
def execJp (nnn : Addr12) (s : State) : StepOutcome := .next (s.setPc (zext16 nnn))

/-- `2NNN` (R115): the pushed pc is the call's address + 2. -/
def execCall (nnn : Addr12) (s : State) : StepOutcome :=
  if s.stackFull then raise .stackOverflow s else .next ((s.push s.pc).setPc (zext16 nnn))

/-- `3XNN` (R116). -/
def execSeImm (x : RegIx) (nn : Byte) (s : State) : StepOutcome := .next (s.skipIf (s.readV x == nn))

/-- `4XNN` (R117). -/
def execSneImm (x : RegIx) (nn : Byte) (s : State) : StepOutcome := .next (s.skipIf (s.readV x != nn))

/-- `5XY0` (R118). -/
def execSeReg (x y : RegIx) (s : State) : StepOutcome := .next (s.skipIf (s.readV x == s.readV y))

/-- `6XNN` (R119). -/
def execLdImm (x : RegIx) (nn : Byte) (s : State) : StepOutcome := .next (s.writeV x nn)

/-- `7XNN` (R120): mod 256, no flag. -/
def execAddImm (x : RegIx) (nn : Byte) (s : State) : StepOutcome := .next (s.writeV x (s.readV x + nn))

/-- An unrecognized word (R97): nothing beyond the fetch advance, which has happened. -/
def execNop (_w : Word) (s : State) : StepOutcome := .next s

end Sys2Proof.Machine
end

