-- ==== Sys2Proof/Machine/Family8.lean ====
section
/-!
DEFINITION. Family 0x8 (42_family_8.md): register arithmetic, logic and shifts. The operands are read before any write,
and VF is written last (40_cycle.md R96).
-/

namespace Sys2Proof.Machine

/-- `8XY0` (R142). -/
def execLdReg (x y : RegIx) (s : State) : StepOutcome := .next (s.writeV x (s.readV y))

/-- `8XY1` (R143): no flag. -/
def execOrReg (x y : RegIx) (s : State) : StepOutcome := .next (s.writeV x (s.readV x ||| s.readV y))

/-- `8XY2` (R144): no flag. -/
def execAndReg (x y : RegIx) (s : State) : StepOutcome := .next (s.writeV x (s.readV x &&& s.readV y))

/-- `8XY3` (R145): no flag. -/
def execXorReg (x y : RegIx) (s : State) : StepOutcome := .next (s.writeV x (s.readV x ^^^ s.readV y))

/-- `8XY4` (R146). -/
def execAddReg (x y : RegIx) (s : State) : StepOutcome :=
  .next (s.writeWithFlag x (s.readV x + s.readV y) (carryOut (s.readV x) (s.readV y)))

/-- `8XY5` (R147, D6). -/
def execSubReg (x y : RegIx) (s : State) : StepOutcome :=
  .next (s.writeWithFlag x (s.readV x - s.readV y) (notBorrow (s.readV x) (s.readV y)))

/-- `8XY6` (R148): V[Y] is shifted, V[X] is not read. -/
def execShr (x y : RegIx) (s : State) : StepOutcome :=
  .next (s.writeWithFlag x (s.readV y >>> 1) (lowBit (s.readV y)))

/-- `8XY7` (R149, D6). -/
def execSubn (x y : RegIx) (s : State) : StepOutcome :=
  .next (s.writeWithFlag x (s.readV y - s.readV x) (notBorrow (s.readV y) (s.readV x)))

/-- `8XYE` (R150): V[Y] is shifted, V[X] is not read. -/
def execShl (x y : RegIx) (s : State) : StepOutcome :=
  .next (s.writeWithFlag x (s.readV y <<< 1) (highBit (s.readV y)))

end Sys2Proof.Machine
end

