-- ==== Sys2Proof/Machine/Family9toD.lean ====
section
/-!
DEFINITION. Families 0x9 to 0xD (43_family_9_to_D.md): register skip, index load, indexed jump, random, sprite draw.
-/

namespace Sys2Proof.Machine

/-- `9XY0` (R170). -/
def execSneReg (x y : RegIx) (s : State) : StepOutcome := .next (s.skipIf (s.readV x != s.readV y))

/-- `ANNN` (R171). -/
def execLdI (nnn : Addr12) (s : State) : StepOutcome := .next (s.setI (zext16 nnn))

/-- `BNNN` (R172): the offset register is always V0. -/
def execJpV0 (nnn : Addr12) (s : State) : StepOutcome := .next (s.setPc (offsetTarget nnn (s.readV 0)))

/-- `CXNN` (R173): one free draw, AND NN. -/
def execRnd (x : RegIx) (nn : Byte) (s : State) : StepOutcome := .next ((s.writeV x (s.nextDraw &&& nn)).countDraw)

/-- `DXYN` (R174–R178): the anchor is read before VF is written, and the range check comes before any write. -/
def execDrw (x y : RegIx) (n : Nibble) (s : State) : StepOutcome :=
  if s.dataInRange n.toNat then
    let d := drawSprite (anchorX (s.readV x)) (anchorY (s.readV y)) (s.readBytes s.I.toNat n.toNat) s.fb
    .next ((s.setFb d.fb).writeV VF (flagByte d.collided))
  else raise .dataAddressOutOfRange s

end Sys2Proof.Machine
end

