-- ==== Sys2Proof/Machine/FamilyEF.lean ====
section
/-!
DEFINITION. Families 0xE and 0xF (44_family_E_F.md): keys, timers, index arithmetic, font, decimal digits, block store and
load, and the key-wait arbiter.
-/

namespace Sys2Proof.Machine

/-- A skip on the state of key V[X]: `down` is the state that skips (R200, R201, R202). -/
def keySkip (x : RegIx) (down : Bool) (s : State) : StepOutcome :=
  match s.keyAt (s.readV x) with
  | some pressed => .next (s.skipIf (pressed == down))
  | none => raise .keyIndexOutOfRange s

/-- `EX9E` (R200). -/
def execSkp (x : RegIx) (s : State) : StepOutcome := keySkip x true s

/-- `EXA1` (R201). -/
def execSknp (x : RegIx) (s : State) : StepOutcome := keySkip x false s

/-- `FX07` (R203). -/
def execLdVxDT (x : RegIx) (s : State) : StepOutcome := .next (s.writeV x s.dt)

/-- `FX15` (R204). -/
def execLdDTVx (x : RegIx) (s : State) : StepOutcome := .next (s.setDt (s.readV x))

/-- `FX18` (R205). -/
def execLdSTVx (x : RegIx) (s : State) : StepOutcome := .next (s.setSt (s.readV x))

/-- `FX1E` (R206): mod 65536, no flag. -/
def execAddI (x : RegIx) (s : State) : StepOutcome := .next (s.setI (s.I + byteToWord (s.readV x)))

/-- `FX0A` (R207): sets the latch; the keypad is not scanned in this step. -/
def execLdVxK (x : RegIx) (s : State) : StepOutcome := .next (s.beginWait x)

/-- `FX29` (R208). -/
def execLdF (x : RegIx) (s : State) : StepOutcome := .next (s.setI (glyphAddr (s.readV x)))

/-- `FX33` (R209). -/
def execLdB (x : RegIx) (s : State) : StepOutcome :=
  if s.dataInRange 3 then .next (s.storeBytes s.I.toNat (decimalDigits (s.readV x)))
  else raise .dataAddressOutOfRange s

/-- `FX55` (R210): I is not changed. -/
def execStRegs (x : RegIx) (s : State) : StepOutcome :=
  if s.dataInRange (regCount x) then .next (s.storeBytes s.I.toNat (s.firstRegs x))
  else raise .dataAddressOutOfRange s

/-- `FX65` (R211): I is not changed. -/
def execLdRegs (x : RegIx) (s : State) : StepOutcome :=
  if s.dataInRange (regCount x) then .next (s.setV (s.regsFromMemory x))
  else raise .dataAddressOutOfRange s

/-- `KeyWaitPoll()`, what a step does while the latch is set (R212, R213): the lowest pressed key goes to the target
register and the flag is cleared; with no key down nothing changes. -/
def keyWaitPoll (s : State) : State :=
  match s.lowestKey with
  | some k => (s.writeV s.waitReg (BitVec.ofNat 8 k.val)).endWait
  | none => s

end Sys2Proof.Machine
end

