-- ==== Sys2Proof/Machine/Step.lean ====
section
/-!
DEFINITION. The step (40_cycle.md R91).
-/

namespace Sys2Proof.Machine

/-- The instruction part of a step: the fetch check, the fetch, the advance of pc, and the instruction (R93–R95). -/
def fetchAndExecute (s : State) : StepOutcome :=
  if s.fetchInRange then exec (decodeWord s.fetchWord) s.advance else raise .addressOutOfRange s

/-- One call of `step()` (R91): a latched fault makes it inert (R92); while the key-wait latch is set it polls (R212,
R213); otherwise it fetches and executes. -/
def step (s : State) : Host.Outcome State Fault Refusal :=
  match s.fault with
  | some _ => .next s
  | none => if s.waiting then .next (keyWaitPoll s) else fetchAndExecute s

/-- `s` with an opcode-table word at pc, made ready so that the very next step runs it: the word's two bytes are stored
high byte first, both latches are clear, and pc is at 0x200 where it was outside the fetch range (log entry 11). In a
Running state whose pc is in range only the two bytes change. -/
def State.withFetchWord (s : State) (nbits w : Nat) : State :=
  let word : Word := BitVec.ofNat 16 (w % 2 ^ nbits)
  let ready := (if s.fetchInRange then s else s.setPc (BitVec.ofNat 16 loadAddr)).clearFault.endWait
  ready.storeBytes ready.pc.toNat [highByte word, lowByte word]

end Sys2Proof.Machine
end

