-- ==== Sys2Proof/Machine/HostOps.lean ====
section
/-!
DEFINITION. The host's operations and accessors, and what the host observes (60_exceptions.md R248–R253,
70_reset_and_hazards.md R270–R276, 10_state.md R32).
-/

namespace Sys2Proof.Machine

/-! ## load (R270, R271) -/

/-- The result of load (R252, R259). -/
inductive LoadResult where
  | ok
  | imageTooLarge
  deriving DecidableEq, Repr

/-- The state after a successful load (R271, R38). The keypad is the host's and stays (D19); the parameters and the count
of draws, which are not the spec's state, stay too (log entry 4). -/
def State.loaded (s : State) (image : List Byte) : State :=
  { State.reset with
    mem := Memory.writeAll s.cfg.font [] loadAddr image
    key := s.key
    cfg := s.cfg
    draws := s.draws }

/-- `load(image)`: too large an image changes nothing (R270, D9). -/
def State.load (s : State) (image : List Byte) : LoadResult × State :=
  if image.length ≤ maxImage then (.ok, s.loaded image) else (.imageTooLarge, s)

/-! ## tick_timers (R248) -/

/-- A timer one tick later: down by 1, floored at 0 (R248). -/
def tickTimer (b : Byte) : Byte := if b = 0 then 0 else b - 1

/-- `tick_timers()`, the same in every macro-state (R248, R249). -/
def State.tickTimers (s : State) : State := (s.setDt (tickTimer s.dt)).setSt (tickTimer s.st)

/-! ## Keypad write (R253) -/

/-- The host writes the keypad: any number of keys at once, so the operation carries the whole keypad as it is to be
(log entry 19). -/
def State.writeKeys (s : State) (keys : Keypad) : State := { s with key := keys }

/-! ## The four operations in one total order (R251) -/

/-- One operation of the host (R5, R252). -/
inductive HostOp where
  | load (image : List Byte)
  | step
  | tickTimers
  | writeKeys (keys : Keypad)
  deriving DecidableEq, Repr

/-- What one operation of the host does. -/
def applyOp (op : HostOp) (s : State) : StepOutcome :=
  match op with
  | .load image => .next (s.load image).2
  | .step => step s
  | .tickTimers => .next s.tickTimers
  | .writeKeys keys => .next (s.writeKeys keys)

/-- A run: the operations in the order the host chose (R251). -/
def runOps : List HostOp → State → StepOutcome
  | [], s => .next s
  | op :: ops, s =>
    match applyOp op s with
    | .next t => runOps ops t
    | .fault r => .fault r
    | .refused r => .refused r

/-! ## What the host observes -/

/-- The result of the step that led to `t`: Err(K) exactly when the latch holds K (R90, R100; log entry 1). -/
def State.stepResult (t : State) : Except Fault Unit :=
  match t.fault with
  | none => .ok ()
  | some k => .error k

/-- The code of the fault latch (R240, D20). -/
def faultCode : Option Fault → BitVec 3
  | none => 0
  | some .addressOutOfRange => 1
  | some .stackUnderflow => 2
  | some .stackOverflow => 3
  | some .dataAddressOutOfRange => 4
  | some .keyIndexOutOfRange => 5

/-- The framebuffer accessor: the pixel at linear index y·64 + x (R29, R252, D21). -/
def State.pixelAt (s : State) (k : Fin 2048) : Bool :=
  s.fb.pixel (Fin.ofNat 64 (k.val % 64)) (Fin.ofNat 32 (k.val / 64))

/-- `sound_active` (R250, D15). -/
def State.soundActive (s : State) : Bool := s.st != 0

/-- The macro-states (R32). -/
inductive MacroState where
  | running
  | awaitingKey
  | faulted (k : Fault)
  deriving DecidableEq, Repr

/-- The macro-state, a function of the two latches (R32). -/
def State.macroState (s : State) : MacroState :=
  match s.fault with
  | some k => .faulted k
  | none => if s.waiting then .awaitingKey else .running

/-- A final state: Faulted, or Running with a jump to its own address at pc (R276, D22). AwaitingKey is never final. -/
def State.isFinal (s : State) : Bool :=
  match s.macroState with
  | .faulted _ => true
  | .awaitingKey => false
  | .running => s.fetchInRange && decodeWord s.fetchWord == .jp (s.pc.truncate 12)

end Sys2Proof.Machine
end

