-- ==== Sys2Proof/Safety.lean ====
section
/-!
DEFINITION. What counts as a good state and a safe run, and what an instruction may change.
Rules: 10_state.md R25, R26, R32; 20_memory.md R50; 40_cycle.md R98.
-/

namespace Sys2Proof.Machine

/-! ## Good states -/

/-- The invariant of the core: what holds at reset and after every operation of the host. -/
structure State.Inv (s : State) : Prop where
  /-- Memory keeps its canonical form, so every cell lies in 0..4095 (R50, log entry 5). -/
  mem : Memory.wf s.cfg.font s.mem
  /-- pc never exceeds 0x10FE (R25). -/
  pc : s.pc.toNat ≤ 0x10FE
  /-- Every stack entry is at most 4096 (R26). -/
  stack : ∀ a ∈ s.stack, a.toNat ≤ 4096
  /-- The stack never holds more than STACK_DEPTH entries (R26). -/
  depth : ∀ d, s.cfg.stackDepth = some d → s.stack.length ≤ d
  /-- `waiting` = 1 and `fault` ≠ None never hold together (R32). -/
  latch : s.waiting = true → s.fault = none

/-- The state fetches at its next step: no fault, no key wait, and pc ≤ 4094 (R91, R93). -/
structure State.FetchReady (s : State) : Prop where
  noFault : s.fault = none
  notWaiting : s.waiting = false
  pcInRange : s.pc.toNat ≤ 4094

/-- A safe run of host operations: it ends in a next state whose fault latch is clear (R31). -/
def SafeRun (ops : List HostOp) (s : State) : Prop := ∃ t, runOps ops s = .next t ∧ t.fault = none

/-! ## What an instruction may change (R98) -/

/-- The state an instruction's rule names: the registers, the other fields, and the addresses it stores to. -/
structure Footprint where
  regs : List RegIx := []
  index : Bool := false
  pc : Bool := false
  stack : Bool := false
  dt : Bool := false
  st : Bool := false
  fb : Bool := false
  latch : Bool := false
  fault : Bool := false
  draws : Bool := false
  stored : List Nat := []
  deriving DecidableEq, Repr

/-- Between `s` and `t` nothing changed but what the footprint names. The keypad and the parameters are named by none. -/
structure Unchanged (f : Footprint) (s t : State) : Prop where
  regs : ∀ r, r ∉ f.regs → t.readV r = s.readV r
  index : f.index = false → t.I = s.I
  pc : f.pc = false → t.pc = s.pc
  stack : f.stack = false → t.stack = s.stack
  dt : f.dt = false → t.dt = s.dt
  st : f.st = false → t.st = s.st
  fb : f.fb = false → t.fb = s.fb
  waiting : f.latch = false → t.waiting = s.waiting
  waitReg : f.latch = false → t.waitReg = s.waitReg
  fault : f.fault = false → t.fault = s.fault
  draws : f.draws = false → t.draws = s.draws
  mem : ∀ a, a ∉ f.stored → t.readByte a = s.readByte a
  key : t.key = s.key
  cfg : t.cfg = s.cfg

/-- The state each instruction's rule lets it write in state `s` (after the fetch advance). -/
def footprint (s : State) : Instr → Footprint
  | .cls => { fb := true }
  | .ret => { pc := true, stack := true, fault := true }
  | .jp _ => { pc := true }
  | .call _ => { pc := true, stack := true, fault := true }
  | .seImm _ _ => { pc := true }
  | .sneImm _ _ => { pc := true }
  | .seReg _ _ => { pc := true }
  | .ldImm x _ => { regs := [x] }
  | .addImm x _ => { regs := [x] }
  | .ldReg x _ => { regs := [x] }
  | .orReg x _ => { regs := [x] }
  | .andReg x _ => { regs := [x] }
  | .xorReg x _ => { regs := [x] }
  | .addReg x _ => { regs := [x, VF] }
  | .subReg x _ => { regs := [x, VF] }
  | .shr x _ => { regs := [x, VF] }
  | .subn x _ => { regs := [x, VF] }
  | .shl x _ => { regs := [x, VF] }
  | .sneReg _ _ => { pc := true }
  | .ldI _ => { index := true }
  | .jpV0 _ => { pc := true }
  | .rnd x _ => { regs := [x], draws := true }
  | .drw _ _ _ => { regs := [VF], fb := true, fault := true }
  | .skp _ => { pc := true, fault := true }
  | .sknp _ => { pc := true, fault := true }
  | .ldVxDT x => { regs := [x] }
  | .ldVxK _ => { latch := true }
  | .ldDTVx _ => { dt := true }
  | .ldSTVx _ => { st := true }
  | .addI _ => { index := true }
  | .ldF _ => { index := true }
  | .ldB _ => { stored := s.dataAddrs 3, fault := true }
  | .stRegs x => { stored := s.dataAddrs (regCount x), fault := true }
  | .ldRegs x => { regs := (List.finRange 16).filter (· ≤ x), fault := true }
  | .nop _ => {}

/-- When executing an instruction raises a fault, and which (R113, R115, R59, R202). -/
def raises (s : State) : Instr → Option Fault
  | .ret => if s.stack = [] then some .stackUnderflow else none
  | .call _ => if s.cfg.stackDepth = some s.stack.length then some .stackOverflow else none
  | .drw _ _ n => if n ≠ 0 ∧ s.I.toNat + n.toNat - 1 > 4095 then some .dataAddressOutOfRange else none
  | .skp x => if (s.readV x).toNat > 15 then some .keyIndexOutOfRange else none
  | .sknp x => if (s.readV x).toNat > 15 then some .keyIndexOutOfRange else none
  | .ldB _ => if s.I.toNat + 2 > 4095 then some .dataAddressOutOfRange else none
  | .stRegs x => if s.I.toNat + x.val > 4095 then some .dataAddressOutOfRange else none
  | .ldRegs x => if s.I.toNat + x.val > 4095 then some .dataAddressOutOfRange else none
  | .cls | .jp _ | .seImm _ _ | .sneImm _ _ | .seReg _ _ | .ldImm _ _ | .addImm _ _ => none
  | .ldReg _ _ | .orReg _ _ | .andReg _ _ | .xorReg _ _ | .addReg _ _ | .subReg _ _ | .shr _ _ => none
  | .subn _ _ | .shl _ _ | .sneReg _ _ | .ldI _ | .jpV0 _ | .rnd _ _ => none
  | .ldVxDT _ | .ldVxK _ | .ldDTVx _ | .ldSTVx _ | .addI _ | .ldF _ | .nop _ => none

/-! ## Words used by the statements -/

/-- Every word with the fixed digits `pattern` under `mask` decodes to the instruction `f` reads from its fields (R76). -/
def DecodesAs (mask pattern : Word) (f : Word → Instr) : Prop := ∀ w, w &&& mask = pattern → decodeWord w = f w

/-- The opcode map of families 0x0 to 0x7 (R74). -/
def opTable0to7 : List (OpRow × (Word → Instr)) :=
  [(⟨0xFFFF, 0x00E0⟩, fun _ => .cls), (⟨0xFFFF, 0x00EE⟩, fun _ => .ret),
   (⟨0xF000, 0x1000⟩, fun w => .jp (fieldNNN w)), (⟨0xF000, 0x2000⟩, fun w => .call (fieldNNN w)),
   (⟨0xF000, 0x3000⟩, fun w => .seImm (fieldX w) (fieldNN w)), (⟨0xF000, 0x4000⟩, fun w => .sneImm (fieldX w) (fieldNN w)),
   (⟨0xF00F, 0x5000⟩, fun w => .seReg (fieldX w) (fieldY w)), (⟨0xF000, 0x6000⟩, fun w => .ldImm (fieldX w) (fieldNN w)),
   (⟨0xF000, 0x7000⟩, fun w => .addImm (fieldX w) (fieldNN w))]

/-- The opcode map of family 0x8 (R74). -/
def opTable8 : List (OpRow × (Word → Instr)) :=
  [(⟨0xF00F, 0x8000⟩, fun w => .ldReg (fieldX w) (fieldY w)), (⟨0xF00F, 0x8001⟩, fun w => .orReg (fieldX w) (fieldY w)),
   (⟨0xF00F, 0x8002⟩, fun w => .andReg (fieldX w) (fieldY w)), (⟨0xF00F, 0x8003⟩, fun w => .xorReg (fieldX w) (fieldY w)),
   (⟨0xF00F, 0x8004⟩, fun w => .addReg (fieldX w) (fieldY w)), (⟨0xF00F, 0x8005⟩, fun w => .subReg (fieldX w) (fieldY w)),
   (⟨0xF00F, 0x8006⟩, fun w => .shr (fieldX w) (fieldY w)), (⟨0xF00F, 0x8007⟩, fun w => .subn (fieldX w) (fieldY w)),
   (⟨0xF00F, 0x800E⟩, fun w => .shl (fieldX w) (fieldY w))]

/-- The opcode map of families 0x9 to 0xD (R74). -/
def opTable9toD : List (OpRow × (Word → Instr)) :=
  [(⟨0xF00F, 0x9000⟩, fun w => .sneReg (fieldX w) (fieldY w)), (⟨0xF000, 0xA000⟩, fun w => .ldI (fieldNNN w)),
   (⟨0xF000, 0xB000⟩, fun w => .jpV0 (fieldNNN w)), (⟨0xF000, 0xC000⟩, fun w => .rnd (fieldX w) (fieldNN w)),
   (⟨0xF000, 0xD000⟩, fun w => .drw (fieldX w) (fieldY w) (fieldN w))]

/-- The opcode map of families 0xE and 0xF (R74). -/
def opTableEF : List (OpRow × (Word → Instr)) :=
  [(⟨0xF0FF, 0xE09E⟩, fun w => .skp (fieldX w)), (⟨0xF0FF, 0xE0A1⟩, fun w => .sknp (fieldX w)),
   (⟨0xF0FF, 0xF007⟩, fun w => .ldVxDT (fieldX w)), (⟨0xF0FF, 0xF00A⟩, fun w => .ldVxK (fieldX w)),
   (⟨0xF0FF, 0xF015⟩, fun w => .ldDTVx (fieldX w)), (⟨0xF0FF, 0xF018⟩, fun w => .ldSTVx (fieldX w)),
   (⟨0xF0FF, 0xF01E⟩, fun w => .addI (fieldX w)), (⟨0xF0FF, 0xF029⟩, fun w => .ldF (fieldX w)),
   (⟨0xF0FF, 0xF033⟩, fun w => .ldB (fieldX w)), (⟨0xF0FF, 0xF055⟩, fun w => .stRegs (fieldX w)),
   (⟨0xF0FF, 0xF065⟩, fun w => .ldRegs (fieldX w))]

/-- The opcode map (R74): each row with the instruction it stands for, its operands read from the word's fields (R71). The
rows are those of `opRows`, in the same order. -/
def opTable : List (OpRow × (Word → Instr)) := opTable0to7 ++ opTable8 ++ opTable9toD ++ opTableEF

/-- Whether the sprite DXYN draws has a 1 bit for the pixel (px, py): the pixel lies in column c < 8 and row r < N of the
sprite, counted from the anchor with wraparound, and bit 7 − c of the byte at I + r is 1 (R174, R175). -/
def State.spriteBit (s : State) (x y : RegIx) (n : Nibble) (px : Fin 64) (py : Fin 32) : Bool :=
  let c := (px.val + 64 - (s.readV x).toNat % 64) % 64
  let r := (py.val + 32 - (s.readV y).toNat % 32) % 32
  decide (c < 8) && decide (r < n.toNat) && (s.readByte (s.I.toNat + r)).getLsbD (7 - c)

/-- The byte at address `a` after the bytes `bs` are stored at `base`, `base + 1`, … (R58, R62). -/
def State.byteAfterStore (s : State) (base : Nat) (bs : List Byte) (a : Nat) : Byte :=
  if base ≤ a then (bs[a - base]?).getD (s.readByte a) else s.readByte a

/-- The addresses the next step stores to: those of the instruction it runs, and none where it runs no instruction (R92,
R93, R212) or the instruction faults (R242). -/
def State.stepStores (s : State) : List Nat :=
  if s.fault = none ∧ s.waiting = false ∧ s.pc.toNat ≤ 4094 ∧ raises s.advance (decodeWord s.fetchWord) = none then
    (footprint s.advance (decodeWord s.fetchWord)).stored
  else []

/-- One operation of the host that does not write the byte at `a`: no load that succeeds, and no step that stores there
(R51). -/
def LeavesByte (a : Nat) (s : State) : HostOp → Prop
  | .load image => maxImage < image.length
  | .step => a ∉ s.stepStores
  | .tickTimers => True
  | .writeKeys _ => True

/-- A run of the host's operations, none of which writes the byte at `a`. -/
def RunLeavesByte (a : Nat) : List HostOp → State → Prop
  | [], _ => True
  | op :: ops, s => LeavesByte a s op ∧ ∀ t, applyOp op s = .next t → RunLeavesByte a ops t

end Sys2Proof.Machine
end

