-- ==== Sys2Proof/Certificates/Slice0/Obligations.lean ====
section
/-!
DEFINITION. The statements for the provers. Each says which rule of spec/ it formalises. `exec i s` runs on the state after
the fetch has added 2 to pc (40_cycle.md R94), so `s.pc` below is the instruction's address + 2. A statement marked
"rests on Dn" follows a decision the spec marks as its own (92_eei_decisions.md).
-/

open Sys2Proof Sys2Proof.Machine

/-! ## Reset, load, tick -/

/-- 70_reset_and_hazards.md, power-on (rests on D10, and on D18, D19 for wait_reg and the keypad). -/
def Obligations.ResetIsThePowerOnState : Prop :=
  (∀ r, State.reset.readV r = 0) ∧ State.reset.I = 0 ∧ State.reset.pc = 0x200 ∧ State.reset.stack = [] ∧
  State.reset.dt = 0 ∧ State.reset.st = 0 ∧ (∀ k : RegIx, State.reset.key[k] = false) ∧
  (∀ x y, State.reset.fb.pixel x y = false) ∧ State.reset.waiting = false ∧ State.reset.waitReg = 0 ∧
  State.reset.fault = none ∧ State.reset.macroState = .running ∧
  (∀ j (h : j < 80), State.reset.readByte (0x50 + j) = State.reset.cfg.font[j]) ∧
  (∀ a, a < 4096 → ¬ (0x50 ≤ a ∧ a < 0xA0) → State.reset.readByte a = 0)

/-- 70_reset_and_hazards.md R271 and the reset table of 10_state.md (rests on D2, D18, D19): every piece of state after a
load of an image of at most 3584 bytes, from any state. -/
def Obligations.LoadResetsEveryPieceOfState : Prop :=
  ∀ (s : State) (image : List Byte), image.length ≤ 3584 → ∃ t, s.load image = (.ok, t) ∧
    (∀ j (h : j < image.length), t.readByte (0x200 + j) = image[j]) ∧
    (∀ j (h : j < 80), t.readByte (0x50 + j) = s.cfg.font[j]) ∧
    (∀ a, a < 4096 → ¬ (0x50 ≤ a ∧ a < 0xA0) → ¬ (0x200 ≤ a ∧ a < 0x200 + image.length) → t.readByte a = 0) ∧
    t.pc = 0x200 ∧ (∀ r, t.readV r = 0) ∧ t.I = 0 ∧ t.stack = [] ∧ t.dt = 0 ∧ t.st = 0 ∧
    (∀ x y, t.fb.pixel x y = false) ∧ t.waiting = false ∧ t.waitReg = 0 ∧ t.fault = none ∧
    t.macroState = .running ∧ t.key = s.key ∧ t.cfg = s.cfg

/-- 70_reset_and_hazards.md R270 (rests on D9): an image above 3584 bytes is refused and changes nothing. -/
def Obligations.LoadRefusesTooLargeImages : Prop :=
  ∀ (s : State) (image : List Byte), 3584 < image.length → s.load image = (.imageTooLarge, s)

/-- R248. -/
def Obligations.TickCountsBothTimersDownToZero : Prop :=
  ∀ s : State, s.tickTimers.dt.toNat = s.dt.toNat - 1 ∧ s.tickTimers.st.toNat = s.st.toNat - 1 ∧
    Unchanged { dt := true, st := true } s s.tickTimers

/-! ## The step -/

/-- R93: the fetch check and the fetch; a step runs the decoded instruction on the state whose pc is advanced by 2. -/
def Obligations.StepFetchesAndRunsTheDecodedInstruction : Prop :=
  ∀ s : State, s.fault = none → s.waiting = false →
    (4095 ≤ s.pc.toNat → step s = .next { s with fault := some .addressOutOfRange }) ∧
    (s.pc.toNat ≤ 4094 → ∀ i, decode [s.readByte s.pc.toNat, s.readByte (s.pc.toNat + 1)] = .ok (i, []) →
      step s = exec i { s with pc := s.pc + 2 })

/-- 40_cycle.md R92 (rests on D2): a step in Faulted changes nothing. -/
def Obligations.LatchedFaultMakesTheStepInert : Prop :=
  ∀ (s : State) (k : Fault), s.fault = some k → step s = .next s ∧ s.stepResult = .error k

/-- R212 and R213: the key-wait poll. -/
def Obligations.KeyWaitPollTakesTheLowestPressedKey : Prop :=
  ∀ s : State, s.fault = none → s.waiting = true →
    (∀ k : RegIx, s.key[k] = true → (∀ j : RegIx, j < k → s.key[j] = false) →
      ∃ t, step s = .next t ∧ t.readV s.waitReg = BitVec.ofNat 8 k.val ∧ t.waiting = false ∧ t.waitReg = s.waitReg ∧
        Unchanged { regs := [s.waitReg], latch := true } s t) ∧
    ((∀ k : RegIx, s.key[k] = false) → step s = .next s)

/-- 40_cycle.md R100 and R240 (the result is read off the latch, log entry 1, DEDUCED): every step ends in a next state,
and its result is Err(K) exactly when K was latched before, or the fetch or the instruction raised it. -/
def Obligations.EveryStepCompletesWithItsResult : Prop :=
  ∀ s : State, ∃ t, step s = .next t ∧ t.stepResult =
    (match s.fault with
     | some k => .error k
     | none =>
       if s.waiting then .ok ()
       else if 4095 ≤ s.pc.toNat then .error .addressOutOfRange
       else match raises { s with pc := s.pc + 2 } (decodeWord s.fetchWord) with
         | some k => .error k
         | none => .ok ())

/-- 40_cycle.md R99 (Faulted rests on D2): the macro-state after every operation of the host. -/
def Obligations.MacroStateTransitions : Prop :=
  ∀ s : State,
    (∀ k, s.macroState = .faulted k → ∃ t, step s = .next t ∧ t.macroState = .faulted k) ∧
    (s.macroState = .awaitingKey → (∃ k : RegIx, s.key[k] = true) → ∃ t, step s = .next t ∧ t.macroState = .running) ∧
    (s.macroState = .awaitingKey → (∀ k : RegIx, s.key[k] = false) →
      ∃ t, step s = .next t ∧ t.macroState = .awaitingKey) ∧
    (s.macroState = .running → 4095 ≤ s.pc.toNat →
      ∃ t, step s = .next t ∧ t.macroState = .faulted .addressOutOfRange) ∧
    (s.macroState = .running → s.pc.toNat ≤ 4094 → ∃ t, step s = .next t ∧ t.macroState =
      (match raises { s with pc := s.pc + 2 } (decodeWord s.fetchWord), decodeWord s.fetchWord with
       | some k, _ => .faulted k
       | none, .ldVxK _ => .awaitingKey
       | none, _ => .running)) ∧
    (∀ image, (s.load image).1 = .ok → (s.load image).2.macroState = .running) ∧
    (∀ image, (s.load image).1 = .imageTooLarge → (s.load image).2.macroState = s.macroState) ∧
    s.tickTimers.macroState = s.macroState ∧ (∀ keys, (s.writeKeys keys).macroState = s.macroState)

/-! ## Families 0x0 to 0x7 -/

/-- R112. -/
def Obligations.ClearTurnsEveryPixelOff : Prop :=
  DecodesAs 0xFFFF 0x00E0 (fun _ => .cls) ∧
  ∀ s : State, ∃ t, exec .cls s = .next t ∧ (∀ x y, t.fb.pixel x y = false) ∧ Unchanged { fb := true } s t

/-- R113, with the source's law: a call that does not overflow and the return at its target restore pc and the stack. -/
def Obligations.ReturnPopsTheStack : Prop :=
  DecodesAs 0xFFFF 0x00EE (fun _ => .ret) ∧
  ∀ s : State,
    (∀ top rest, s.stack = top :: rest →
      ∃ t, exec .ret s = .next t ∧ t.pc = top ∧ t.stack = rest ∧ Unchanged { pc := true, stack := true } s t) ∧
    (s.stack = [] → exec .ret s = .next { s with fault := some .stackUnderflow }) ∧
    (∀ nnn, s.cfg.stackDepth ≠ some s.stack.length →
      ∃ t, exec (.call nnn) s = .next t ∧ t.pc = 0x0#4 ++ nnn ∧ exec .ret { t with pc := t.pc + 2 } = .next s)

/-- R114. -/
def Obligations.JumpSetsThePc : Prop :=
  DecodesAs 0xF000 0x1000 (fun w => .jp (fieldNNN w)) ∧
  ∀ (s : State) (nnn : Addr12), ∃ t, exec (.jp nnn) s = .next t ∧ t.pc = 0x0#4 ++ nnn ∧ Unchanged { pc := true } s t

/-- 41_family_0_to_7.md R115 (the overflow rests on D5; it holds for every STACK_DEPTH). -/
def Obligations.CallPushesAndJumps : Prop :=
  DecodesAs 0xF000 0x2000 (fun w => .call (fieldNNN w)) ∧
  ∀ (s : State) (nnn : Addr12),
    (s.cfg.stackDepth ≠ some s.stack.length →
      ∃ t, exec (.call nnn) s = .next t ∧ t.pc = 0x0#4 ++ nnn ∧ t.stack = s.pc :: s.stack ∧
        Unchanged { pc := true, stack := true } s t) ∧
    (s.cfg.stackDepth = some s.stack.length → exec (.call nnn) s = .next { s with fault := some .stackOverflow })

/-- R116, R117, R118, R170: the four register skips. -/
def Obligations.CompareSkips : Prop :=
  DecodesAs 0xF000 0x3000 (fun w => .seImm (fieldX w) (fieldNN w)) ∧
  DecodesAs 0xF000 0x4000 (fun w => .sneImm (fieldX w) (fieldNN w)) ∧
  DecodesAs 0xF00F 0x5000 (fun w => .seReg (fieldX w) (fieldY w)) ∧
  DecodesAs 0xF00F 0x9000 (fun w => .sneReg (fieldX w) (fieldY w)) ∧
  ∀ (s : State) (x y : RegIx) (nn : Byte),
    (∃ t, exec (.seImm x nn) s = .next t ∧ t.pc = (if s.readV x = nn then s.pc + 2 else s.pc) ∧
      Unchanged { pc := true } s t) ∧
    (∃ t, exec (.sneImm x nn) s = .next t ∧ t.pc = (if s.readV x = nn then s.pc else s.pc + 2) ∧
      Unchanged { pc := true } s t) ∧
    (∃ t, exec (.seReg x y) s = .next t ∧ t.pc = (if s.readV x = s.readV y then s.pc + 2 else s.pc) ∧
      Unchanged { pc := true } s t) ∧
    (∃ t, exec (.sneReg x y) s = .next t ∧ t.pc = (if s.readV x = s.readV y then s.pc else s.pc + 2) ∧
      Unchanged { pc := true } s t)

/-- R119, R120: VF is unchanged unless X = F. -/
def Obligations.LoadAndAddImmediate : Prop :=
  DecodesAs 0xF000 0x6000 (fun w => .ldImm (fieldX w) (fieldNN w)) ∧
  DecodesAs 0xF000 0x7000 (fun w => .addImm (fieldX w) (fieldNN w)) ∧
  ∀ (s : State) (x : RegIx) (nn : Byte),
    (∃ t, exec (.ldImm x nn) s = .next t ∧ t.readV x = nn ∧ Unchanged { regs := [x] } s t) ∧
    (∃ t, exec (.addImm x nn) s = .next t ∧ (t.readV x).toNat = ((s.readV x).toNat + nn.toNat) % 256 ∧
      Unchanged { regs := [x] } s t)

/-! ## Family 0x8 -/

/-- R142, R143, R144, R145: copy and logic, bit by bit, with no flag. -/
def Obligations.CopyAndLogic : Prop :=
  DecodesAs 0xF00F 0x8000 (fun w => .ldReg (fieldX w) (fieldY w)) ∧
  DecodesAs 0xF00F 0x8001 (fun w => .orReg (fieldX w) (fieldY w)) ∧
  DecodesAs 0xF00F 0x8002 (fun w => .andReg (fieldX w) (fieldY w)) ∧
  DecodesAs 0xF00F 0x8003 (fun w => .xorReg (fieldX w) (fieldY w)) ∧
  ∀ (s : State) (x y : RegIx),
    (∃ t, exec (.ldReg x y) s = .next t ∧ t.readV x = s.readV y ∧ Unchanged { regs := [x] } s t) ∧
    (∃ t, exec (.orReg x y) s = .next t ∧ Unchanged { regs := [x] } s t ∧
      ∀ j : Fin 8, (t.readV x)[j] = ((s.readV x)[j] || (s.readV y)[j])) ∧
    (∃ t, exec (.andReg x y) s = .next t ∧ Unchanged { regs := [x] } s t ∧
      ∀ j : Fin 8, (t.readV x)[j] = ((s.readV x)[j] && (s.readV y)[j])) ∧
    (∃ t, exec (.xorReg x y) s = .next t ∧ Unchanged { regs := [x] } s t ∧
      ∀ j : Fin 8, (t.readV x)[j] = ((s.readV x)[j] ^^ (s.readV y)[j]))

/-- 42_family_8.md R146: the sum, and VF = carry. The results for X = F and Y = F rest on D6 (40_cycle.md R96, log entry
14): operands read first, V[X] written, then VF. -/
def Obligations.AddSetsTheCarry : Prop :=
  DecodesAs 0xF00F 0x8004 (fun w => .addReg (fieldX w) (fieldY w)) ∧
  ∀ (s : State) (x y : RegIx), ∃ t, exec (.addReg x y) s = .next t ∧
    (x ≠ 15 → (t.readV x).toNat = ((s.readV x).toNat + (s.readV y).toNat) % 256) ∧
    t.readV 15 = (if (s.readV x).toNat + (s.readV y).toNat > 255 then 1 else 0) ∧ Unchanged { regs := [x, 15] } s t

/-- 42_family_8.md R147 and R149 (the write order rests on D6): the differences, and VF = not-borrow. -/
def Obligations.SubtractSetsNotBorrow : Prop :=
  DecodesAs 0xF00F 0x8005 (fun w => .subReg (fieldX w) (fieldY w)) ∧
  DecodesAs 0xF00F 0x8007 (fun w => .subn (fieldX w) (fieldY w)) ∧
  ∀ (s : State) (x y : RegIx),
    (∃ t, exec (.subReg x y) s = .next t ∧
      (x ≠ 15 → ((t.readV x).toNat : Int) = ((s.readV x).toNat - (s.readV y).toNat : Int) % 256) ∧
      t.readV 15 = (if (s.readV x).toNat ≥ (s.readV y).toNat then 1 else 0) ∧ Unchanged { regs := [x, 15] } s t) ∧
    (∃ t, exec (.subn x y) s = .next t ∧
      (x ≠ 15 → ((t.readV x).toNat : Int) = ((s.readV y).toNat - (s.readV x).toNat : Int) % 256) ∧
      t.readV 15 = (if (s.readV y).toNat ≥ (s.readV x).toNat then 1 else 0) ∧ Unchanged { regs := [x, 15] } s t)

/-- 42_family_8.md R148 and R150: V[Y] is shifted by one into V[X], and VF = the bit shifted out. The results for X = F and
Y = F rest on D6 (40_cycle.md R96, log entry 14). -/
def Obligations.ShiftsTakeVyAndSetTheLostBit : Prop :=
  DecodesAs 0xF00F 0x8006 (fun w => .shr (fieldX w) (fieldY w)) ∧
  DecodesAs 0xF00F 0x800E (fun w => .shl (fieldX w) (fieldY w)) ∧
  ∀ (s : State) (x y : RegIx),
    (∃ t, exec (.shr x y) s = .next t ∧ (x ≠ 15 → (t.readV x).toNat = (s.readV y).toNat / 2) ∧
      (t.readV 15).toNat = (s.readV y).toNat % 2 ∧ Unchanged { regs := [x, 15] } s t) ∧
    (∃ t, exec (.shl x y) s = .next t ∧ (x ≠ 15 → (t.readV x).toNat = (s.readV y).toNat * 2 % 256) ∧
      (t.readV 15).toNat = (s.readV y).toNat / 128 ∧ Unchanged { regs := [x, 15] } s t)

/-! ## Families 0x9 to 0xD -/

/-- R171, R206, R208: the instructions that write I. -/
def Obligations.IndexInstructions : Prop :=
  DecodesAs 0xF000 0xA000 (fun w => .ldI (fieldNNN w)) ∧
  DecodesAs 0xF0FF 0xF01E (fun w => .addI (fieldX w)) ∧
  DecodesAs 0xF0FF 0xF029 (fun w => .ldF (fieldX w)) ∧
  ∀ (s : State) (x : RegIx) (nnn : Addr12),
    (∃ t, exec (.ldI nnn) s = .next t ∧ t.I = 0x0#4 ++ nnn ∧ Unchanged { index := true } s t) ∧
    (∃ t, exec (.addI x) s = .next t ∧ t.I.toNat = (s.I.toNat + (s.readV x).toNat) % 65536 ∧
      Unchanged { index := true } s t) ∧
    (∃ t, exec (.ldF x) s = .next t ∧ t.I.toNat = 0x50 + (s.readV x).toNat % 16 * 5 ∧ 0x50 ≤ t.I.toNat ∧
      t.I.toNat ≤ 0x9B ∧ Unchanged { index := true } s t)

/-- 43_family_9_to_D.md R172 (no wrap, rests on D1). -/
def Obligations.JumpWithOffsetDoesNotWrap : Prop :=
  DecodesAs 0xF000 0xB000 (fun w => .jpV0 (fieldNNN w)) ∧
  ∀ (s : State) (nnn : Addr12), ∃ t, exec (.jpV0 nnn) s = .next t ∧ t.pc.toNat = nnn.toNat + (s.readV 0).toNat ∧
    t.pc.toNat ≤ 0x10FE ∧ Unchanged { pc := true } s t

/-- 43_family_9_to_D.md R173 (the draw is free, rests on D12): the statement holds for every sequence of draws. The
`draws` counter is the model's (log entry 4). -/
def Obligations.RandomTakesOneFreeDraw : Prop :=
  DecodesAs 0xF000 0xC000 (fun w => .rnd (fieldX w) (fieldNN w)) ∧
  ∀ (s : State) (x : RegIx) (nn : Byte), ∃ t, exec (.rnd x nn) s = .next t ∧
    t.readV x = Config.draw8 s.draws &&& nn ∧ t.draws = s.draws + 1 ∧ Unchanged { regs := [x], draws := true } s t

/-- 43_family_9_to_D.md R174–R178 (the fault rests on D3): the sprite drawn, in closed form. Each pixel is the old one XOR
the sprite's bit there; VF = 1 exactly when some pixel went from on to off; with N = 0 nothing can fault. -/
def Obligations.DrawXorsTheSpriteAndSetsCollision : Prop :=
  DecodesAs 0xF000 0xD000 (fun w => .drw (fieldX w) (fieldY w) (fieldN w)) ∧
  ∀ (s : State) (x y : RegIx) (n : Nibble),
    (n = 0 ∨ s.I.toNat + n.toNat - 1 ≤ 4095 → ∃ t, exec (.drw x y n) s = .next t ∧
      (∀ px py, t.fb.pixel px py = (s.fb.pixel px py ^^ s.spriteBit x y n px py)) ∧
      (t.readV 15 = 0 ∨ t.readV 15 = 1) ∧
      (t.readV 15 = 1 ↔ ∃ px py, s.spriteBit x y n px py = true ∧ s.fb.pixel px py = true) ∧
      Unchanged { regs := [15], fb := true } s t) ∧
    (n ≠ 0 ∧ s.I.toNat + n.toNat - 1 > 4095 →
      exec (.drw x y n) s = .next { s with fault := some .dataAddressOutOfRange })

/-- Two draws of one sprite at one anchor (43_family_9_to_D.md R174): the framebuffer is restored, and the second draw
collides exactly when the sprite has a 1 bit on a pixel that was off before the first. The VF clause is read from R174's
pseudocode (log entry 21, DEDUCED): R176's last sentence says otherwise where every such pixel was on before. With all of
them off before, it is the source's collision law. -/
def Obligations.DrawingTwiceRestoresTheFramebuffer : Prop :=
  ∀ (s t u : State) (x y : RegIx) (n : Nibble), n = 0 ∨ s.I.toNat + n.toNat - 1 ≤ 4095 →
    exec (.drw x y n) s = .next t → t.readV x = s.readV x → t.readV y = s.readV y → exec (.drw x y n) t = .next u →
    u.fb = s.fb ∧ u.fault = s.fault ∧
    (u.readV 15 = 1 ↔ ∃ px py, s.spriteBit x y n px py = true ∧ s.fb.pixel px py = false)

/-! ## Families 0xE and 0xF -/

/-- 44_family_E_F.md R200, R201, R202 (the fault rests on D4). -/
def Obligations.KeySkips : Prop :=
  DecodesAs 0xF0FF 0xE09E (fun w => .skp (fieldX w)) ∧ DecodesAs 0xF0FF 0xE0A1 (fun w => .sknp (fieldX w)) ∧
  ∀ (s : State) (x : RegIx),
    (∀ k : RegIx, (s.readV x).toNat = k.val →
      (∃ t, exec (.skp x) s = .next t ∧ t.pc = (if s.key[k] = true then s.pc + 2 else s.pc) ∧
        Unchanged { pc := true } s t) ∧
      (∃ t, exec (.sknp x) s = .next t ∧ t.pc = (if s.key[k] = true then s.pc else s.pc + 2) ∧
        Unchanged { pc := true } s t)) ∧
    ((s.readV x).toNat > 15 →
      exec (.skp x) s = .next { s with fault := some .keyIndexOutOfRange } ∧
      exec (.sknp x) s = .next { s with fault := some .keyIndexOutOfRange })

/-- R203, R204, R205, with R204's law: 6XNN, FX15 and FX07 carry NN through the delay timer when no tick comes between. -/
def Obligations.TimerInstructions : Prop :=
  DecodesAs 0xF0FF 0xF007 (fun w => .ldVxDT (fieldX w)) ∧ DecodesAs 0xF0FF 0xF015 (fun w => .ldDTVx (fieldX w)) ∧
  DecodesAs 0xF0FF 0xF018 (fun w => .ldSTVx (fieldX w)) ∧
  ∀ (s : State) (x : RegIx),
    (∃ t, exec (.ldVxDT x) s = .next t ∧ t.readV x = s.dt ∧ Unchanged { regs := [x] } s t) ∧
    (∃ t, exec (.ldDTVx x) s = .next t ∧ t.dt = s.readV x ∧ Unchanged { dt := true } s t) ∧
    (∃ t, exec (.ldSTVx x) s = .next t ∧ t.st = s.readV x ∧ Unchanged { st := true } s t) ∧
    ∀ (b : RegIx) (nn : Byte), ∃ t u v, exec (.ldImm x nn) s = .next t ∧
      exec (.ldDTVx x) { t with pc := t.pc + 2 } = .next u ∧ exec (.ldVxDT b) { u with pc := u.pc + 2 } = .next v ∧
      v.readV b = nn ∧ v.dt = nn

/-- R207: the latch is set, pc stays and V[X] is not written, whatever the keypad holds. -/
def Obligations.WaitForKeySetsTheLatch : Prop :=
  DecodesAs 0xF0FF 0xF00A (fun w => .ldVxK (fieldX w)) ∧
  ∀ (s : State) (x : RegIx), ∃ t, exec (.ldVxK x) s = .next t ∧ t.waiting = true ∧ t.waitReg = x ∧
    Unchanged { latch := true } s t

/-- 44_family_E_F.md R209 (the fault rests on D3): the three digits at I, I + 1, I + 2, and nothing else. -/
def Obligations.StoreDecimalDigits : Prop :=
  DecodesAs 0xF0FF 0xF033 (fun w => .ldB (fieldX w)) ∧
  ∀ (s : State) (x : RegIx),
    (s.I.toNat + 2 ≤ 4095 → ∃ t, exec (.ldB x) s = .next t ∧
      (t.readByte s.I.toNat).toNat = (s.readV x).toNat / 100 ∧
      (t.readByte (s.I.toNat + 1)).toNat = (s.readV x).toNat / 10 % 10 ∧
      (t.readByte (s.I.toNat + 2)).toNat = (s.readV x).toNat % 10 ∧ Unchanged { stored := s.dataAddrs 3 } s t) ∧
    (s.I.toNat + 2 > 4095 → exec (.ldB x) s = .next { s with fault := some .dataAddressOutOfRange })

/-- 44_family_E_F.md R210 (the fault rests on D3): V0..VX at I..I + X, and nothing else. -/
def Obligations.StoreRegisters : Prop :=
  DecodesAs 0xF0FF 0xF055 (fun w => .stRegs (fieldX w)) ∧
  ∀ (s : State) (x : RegIx),
    (s.I.toNat + x.val ≤ 4095 → ∃ t, exec (.stRegs x) s = .next t ∧
      (∀ r : RegIx, r ≤ x → t.readByte (s.I.toNat + r.val) = s.readV r) ∧
      Unchanged { stored := s.dataAddrs (x.val + 1) } s t) ∧
    (s.I.toNat + x.val > 4095 → exec (.stRegs x) s = .next { s with fault := some .dataAddressOutOfRange })

/-- 44_family_E_F.md R211 (the fault rests on D3): I..I + X into V0..VX; the registers above X and I are unchanged. -/
def Obligations.LoadRegisters : Prop :=
  DecodesAs 0xF0FF 0xF065 (fun w => .ldRegs (fieldX w)) ∧
  ∀ (s : State) (x : RegIx),
    (s.I.toNat + x.val ≤ 4095 → ∃ t, exec (.ldRegs x) s = .next t ∧
      (∀ r : RegIx, r ≤ x → t.readV r = s.readByte (s.I.toNat + r.val)) ∧
      (∀ r : RegIx, x < r → t.readV r = s.readV r) ∧
      Unchanged { regs := (List.finRange 16).filter (· ≤ x) } s t) ∧
    (s.I.toNat + x.val > 4095 → exec (.ldRegs x) s = .next { s with fault := some .dataAddressOutOfRange })

/-- R97: a word that matches no row of the opcode table only advances pc by 2. -/
def Obligations.UnrecognizedWordsAreNoOps : Prop :=
  (∀ w, recognized w = false → decodeWord w = .nop w) ∧ (∀ (s : State) (w : Word), exec (.nop w) s = .next s) ∧
  ∀ s : State, s.FetchReady → recognized s.fetchWord = false → step s = .next { s with pc := s.pc + 2 }

/-! ## Whole-machine rules -/

/-- The frame rule, 40_cycle.md R98: an instruction writes only the state its rule names. That it answers a next state also
where it raises a fault is the model's reading (log entry 1, DEDUCED). -/
def Obligations.EveryInstructionKeepsItsFrame : Prop :=
  ∀ (i : Instr) (s : State), ∃ t, exec i s = .next t ∧ Unchanged (footprint s i) s t

/-- 60_exceptions.md R240–R243: an instruction raises K exactly under its rule's condition; then K is latched and nothing
else changed; otherwise the latch keeps its value (rests on D2–D5). -/
def Obligations.FaultsArePrecise : Prop :=
  ∀ (i : Instr) (s : State),
    (∀ k, raises s i = some k → exec i s = .next { s with fault := some k }) ∧
    (raises s i = none → ∃ t, exec i s = .next t ∧ t.fault = s.fault)

/-- 10_state.md R21, R23, R24, R26–R31 and 20_memory.md R51: which instruction a step must have run for a piece of state to
change; the keypad and the parameters change in no step, pc only in a step that fetches, and the fault latch only from
None to the kind the fetch or the instruction raises (D2). `draws` is the model's own (log entry 4). -/
def Obligations.OnlyTheNamedInstructionsWriteEachState : Prop :=
  ∀ s t : State, step s = .next t →
    t.key = s.key ∧ t.cfg = s.cfg ∧
    (∀ r, t.readV r ≠ s.readV r →
      s.waiting = true ∧ r = s.waitReg ∨ r ∈ (footprint s (decodeWord s.fetchWord)).regs) ∧
    (t.I ≠ s.I → ∃ x nnn, decodeWord s.fetchWord ∈ [.ldI nnn, .addI x, .ldF x]) ∧
    (t.stack ≠ s.stack → ∃ nnn, decodeWord s.fetchWord ∈ [.call nnn, .ret]) ∧
    (t.dt ≠ s.dt → ∃ x, decodeWord s.fetchWord = .ldDTVx x) ∧
    (t.st ≠ s.st → ∃ x, decodeWord s.fetchWord = .ldSTVx x) ∧
    (t.fb ≠ s.fb → ∃ x y n, decodeWord s.fetchWord ∈ [.cls, .drw x y n]) ∧
    (∀ a, t.readByte a ≠ s.readByte a → ∃ x, decodeWord s.fetchWord ∈ [.ldB x, .stRegs x]) ∧
    (t.waiting ≠ s.waiting → s.waiting = true ∨ ∃ x, decodeWord s.fetchWord = .ldVxK x) ∧
    (t.waitReg ≠ s.waitReg → ∃ x, decodeWord s.fetchWord = .ldVxK x) ∧
    (t.draws ≠ s.draws → ∃ x nn, decodeWord s.fetchWord = .rnd x nn) ∧
    (t.pc ≠ s.pc → s.FetchReady) ∧
    (t.fault ≠ s.fault → s.fault = none ∧ s.waiting = false ∧ ∃ k, t.fault = some k ∧
      (4095 ≤ s.pc.toNat ∧ k = .addressOutOfRange ∨
       s.pc.toNat ≤ 4094 ∧ raises s.advance (decodeWord s.fetchWord) = some k))

/-- 10_state.md R25, R26, R32 and the canonical form of memory: the invariant is kept by every step. -/
def Obligations.StepKeepsTheInvariant : Prop := ∀ s t : State, s.Inv → step s = .next t → t.Inv

/-- The power-on state meets the invariant. -/
def Obligations.ResetMeetsTheInvariant : Prop := State.reset.Inv

/-- 60_exceptions.md R251: every order of the host's operations runs to a next state, and keeps the invariant. -/
def Obligations.EveryHostScheduleKeepsTheInvariant : Prop :=
  ∀ (ops : List HostOp) (s : State), s.Inv → ∃ t, runOps ops s = .next t ∧ t.Inv ∧ t.cfg = s.cfg

/-- 10_state.md R27, "No instruction reads ST": with another value in ST an instruction does the same to everything else. -/
def Obligations.NoInstructionReadsTheSoundTimer : Prop :=
  ∀ (i : Instr) (s t : State) (b : Byte), exec i s = .next t →
    ((∀ x, i ≠ .ldSTVx x) → exec i { s with st := b } = .next { t with st := b }) ∧
    (∀ x, i = .ldSTVx x → exec i { s with st := b } = .next t)

/-- 43_family_9_to_D.md R173 and 60_exceptions.md R255: only CXNN draws; every other instruction does the same whatever
the free draws are. -/
def Obligations.OnlyRandomDependsOnTheDraws : Prop :=
  ∀ (i : Instr) (s t : State) (k : Nat), (∀ x nn, i ≠ .rnd x nn) → exec i s = .next t →
    t.draws = s.draws ∧ exec i { s with draws := k } = .next { t with draws := k }

/-- R64: a byte that FX33 or FX55 stores is seen by every later fetch of its address. After the store, let any operations
of the host run that do not write the bytes at p and p + 1 again (with none: the very next fetch): the word fetched at p
is made of the stored bytes where they lie, and of the old bytes elsewhere. -/
def Obligations.StoresAreSeenByTheNextFetch : Prop :=
  ∀ (s : State) (x : RegIx) (p : Word), p.toNat ≤ 4094 →
    (s.I.toNat + 2 ≤ 4095 → ∃ t, exec (.ldB x) s = .next t ∧
      ∀ ops, RunLeavesByte p.toNat ops t → RunLeavesByte (p.toNat + 1) ops t → ∃ u, runOps ops t = .next u ∧
        ({ u with pc := p }).fetchWord.toNat =
          256 * (s.byteAfterStore s.I.toNat (decimalDigits (s.readV x)) p.toNat).toNat +
            (s.byteAfterStore s.I.toNat (decimalDigits (s.readV x)) (p.toNat + 1)).toNat) ∧
    (s.I.toNat + x.val ≤ 4095 → ∃ t, exec (.stRegs x) s = .next t ∧
      ∀ ops, RunLeavesByte p.toNat ops t → RunLeavesByte (p.toNat + 1) ops t → ∃ u, runOps ops t = .next u ∧
        ({ u with pc := p }).fetchWord.toNat =
          256 * (s.byteAfterStore s.I.toNat (s.firstRegs x) p.toNat).toNat +
            (s.byteAfterStore s.I.toNat (s.firstRegs x) (p.toNat + 1)).toNat)

/-- 70_reset_and_hazards.md R276 (rests on D22): in a final state a step changes nothing. -/
def Obligations.FinalStatesStay : Prop := ∀ s : State, s.isFinal = true → step s = .next s

/-- 60_exceptions.md R240, R250, R252, R253 (rests on D15, D19, D20, D21): the host's read accessors, its keypad write,
and the table of fault codes. -/
def Obligations.HostAccessors : Prop :=
  (∀ (s : State) (x : Fin 64) (y : Fin 32) (h : y.val * 64 + x.val < 2048),
    s.pixelAt ⟨y.val * 64 + x.val, h⟩ = s.fb.pixel x y) ∧
  (∀ s : State, s.soundActive = true ↔ s.st ≠ 0) ∧
  (∀ (s : State) (keys : Keypad),
    (s.writeKeys keys).key = keys ∧ { s.writeKeys keys with key := s.key } = s) ∧
  faultCode none = 0 ∧ faultCode (some .addressOutOfRange) = 1 ∧ faultCode (some .stackUnderflow) = 2 ∧
  faultCode (some .stackOverflow) = 3 ∧ faultCode (some .dataAddressOutOfRange) = 4 ∧
  faultCode (some .keyIndexOutOfRange) = 5 ∧
  (∀ k k' : Option Fault, faultCode k = faultCode k' → k = k') ∧ (∀ k, (faultCode k).toNat ≤ 5)

/-! ## Encoding and representation -/

/-- 30_encoding.md R71–R76: decoding the encoded bytes of a well-formed instruction gives it back, whatever bytes follow. -/
def Obligations.DecodeOfEncodeIsTheInstruction : Prop :=
  ∀ (i : Instr) (rest : List Byte), WellFormed i = true →
    decodeWord (encode i) = i ∧ decode (encodeBytes i ++ rest) = .ok (i, rest)

/-- 30_encoding.md R79: every word decodes to one well-formed instruction, and encoding that gives the word back. -/
def Obligations.EncodeOfDecodeIsTheWord : Prop :=
  ∀ w : Word, WellFormed (decodeWord w) = true ∧ encode (decodeWord w) = w

/-- 30_encoding.md R73, R74, R77: no word matches two rows of the opcode table, every word a row covers decodes to that
row's own instruction with the operands of its fields, and the decoder takes the fallback row exactly when none matches. -/
def Obligations.DecoderFollowsTheOpcodeTable : Prop :=
  (∀ w : Word, (opRows.filter (·.covers w)).length ≤ 1) ∧
  opTable.map (·.1) = opRows ∧ (∀ row f, (row, f) ∈ opTable → DecodesAs row.mask row.pattern f) ∧
  (∀ w : Word, decodeWord w = .nop w ↔ recognized w = false)

/-- Words written out from the encodings of 30_encoding.md R71 and R74. -/
def Obligations.SampleWordsDecode : Prop :=
  decodeWord 0b0000000011100000 = .cls ∧ decodeWord 0b0001001000110100 = .jp 0x234 ∧
  decodeWord 0b0011001100010010 = .seImm 3 0x12 ∧ decodeWord 0b1000000100100100 = .addReg 1 2 ∧
  decodeWord 0b1101000000010101 = .drw 0 1 5 ∧ decodeWord 0b1110010110011110 = .skp 5 ∧
  decodeWord 0b1111001000110011 = .ldB 2 ∧ decodeWord 0b0101000100100001 = .nop 0x5121

/-- The canonical form of memory (log entry 5, the model's own): two canonical memories that read alike are equal. -/
def Obligations.EqualMemoriesAreEqualData : Prop :=
  ∀ (font : Vector Byte 80) (m m' : Memory), Memory.wf font m → Memory.wf font m' →
    (∀ a, Memory.read font m a = Memory.read font m' a) → m = m'

/-- `withFetchWord` (log entry 11, the model's own): the very next step runs the word, from any state. -/
def Obligations.WithFetchWordRunsTheWordNext : Prop :=
  ∀ (s : State) (w : Word),
    (s.withFetchWord 16 w.toNat).FetchReady ∧
    step (s.withFetchWord 16 w.toNat) = exec (decodeWord w) (s.withFetchWord 16 w.toNat).advance
end

