-- ==== Sys2Proof/Laws/State.lean ====
section
/-!
SUPPORT. One lemma per field per named update of the state, true by rfl. A later proof reads a field through these and
never unfolds a record update.
-/

namespace Sys2Proof.Machine.State

variable (s : State)

/-! ### writeV -/

@[simp] theorem writeV_v (r : RegIx) (b : Byte) : (s.writeV r b).v = s.v.set r b := rfl
@[simp] theorem writeV_I (r : RegIx) (b : Byte) : (s.writeV r b).I = s.I := rfl
@[simp] theorem writeV_pc (r : RegIx) (b : Byte) : (s.writeV r b).pc = s.pc := rfl
@[simp] theorem writeV_stack (r : RegIx) (b : Byte) : (s.writeV r b).stack = s.stack := rfl
@[simp] theorem writeV_dt (r : RegIx) (b : Byte) : (s.writeV r b).dt = s.dt := rfl
@[simp] theorem writeV_st (r : RegIx) (b : Byte) : (s.writeV r b).st = s.st := rfl
@[simp] theorem writeV_key (r : RegIx) (b : Byte) : (s.writeV r b).key = s.key := rfl
@[simp] theorem writeV_fb (r : RegIx) (b : Byte) : (s.writeV r b).fb = s.fb := rfl
@[simp] theorem writeV_waiting (r : RegIx) (b : Byte) : (s.writeV r b).waiting = s.waiting := rfl
@[simp] theorem writeV_waitReg (r : RegIx) (b : Byte) : (s.writeV r b).waitReg = s.waitReg := rfl
@[simp] theorem writeV_fault (r : RegIx) (b : Byte) : (s.writeV r b).fault = s.fault := rfl
@[simp] theorem writeV_mem (r : RegIx) (b : Byte) : (s.writeV r b).mem = s.mem := rfl
@[simp] theorem writeV_cfg (r : RegIx) (b : Byte) : (s.writeV r b).cfg = s.cfg := rfl
@[simp] theorem writeV_draws (r : RegIx) (b : Byte) : (s.writeV r b).draws = s.draws := rfl

/-! ### setV -/

@[simp] theorem setV_v (v : RegFile) : (s.setV v).v = v := rfl
@[simp] theorem setV_I (v : RegFile) : (s.setV v).I = s.I := rfl
@[simp] theorem setV_pc (v : RegFile) : (s.setV v).pc = s.pc := rfl
@[simp] theorem setV_stack (v : RegFile) : (s.setV v).stack = s.stack := rfl
@[simp] theorem setV_dt (v : RegFile) : (s.setV v).dt = s.dt := rfl
@[simp] theorem setV_st (v : RegFile) : (s.setV v).st = s.st := rfl
@[simp] theorem setV_key (v : RegFile) : (s.setV v).key = s.key := rfl
@[simp] theorem setV_fb (v : RegFile) : (s.setV v).fb = s.fb := rfl
@[simp] theorem setV_waiting (v : RegFile) : (s.setV v).waiting = s.waiting := rfl
@[simp] theorem setV_waitReg (v : RegFile) : (s.setV v).waitReg = s.waitReg := rfl
@[simp] theorem setV_fault (v : RegFile) : (s.setV v).fault = s.fault := rfl
@[simp] theorem setV_mem (v : RegFile) : (s.setV v).mem = s.mem := rfl
@[simp] theorem setV_cfg (v : RegFile) : (s.setV v).cfg = s.cfg := rfl
@[simp] theorem setV_draws (v : RegFile) : (s.setV v).draws = s.draws := rfl

/-! ### setI -/

@[simp] theorem setI_v (w : Word) : (s.setI w).v = s.v := rfl
@[simp] theorem setI_I (w : Word) : (s.setI w).I = w := rfl
@[simp] theorem setI_pc (w : Word) : (s.setI w).pc = s.pc := rfl
@[simp] theorem setI_stack (w : Word) : (s.setI w).stack = s.stack := rfl
@[simp] theorem setI_dt (w : Word) : (s.setI w).dt = s.dt := rfl
@[simp] theorem setI_st (w : Word) : (s.setI w).st = s.st := rfl
@[simp] theorem setI_key (w : Word) : (s.setI w).key = s.key := rfl
@[simp] theorem setI_fb (w : Word) : (s.setI w).fb = s.fb := rfl
@[simp] theorem setI_waiting (w : Word) : (s.setI w).waiting = s.waiting := rfl
@[simp] theorem setI_waitReg (w : Word) : (s.setI w).waitReg = s.waitReg := rfl
@[simp] theorem setI_fault (w : Word) : (s.setI w).fault = s.fault := rfl
@[simp] theorem setI_mem (w : Word) : (s.setI w).mem = s.mem := rfl
@[simp] theorem setI_cfg (w : Word) : (s.setI w).cfg = s.cfg := rfl
@[simp] theorem setI_draws (w : Word) : (s.setI w).draws = s.draws := rfl

/-! ### setPc -/

@[simp] theorem setPc_v (w : Word) : (s.setPc w).v = s.v := rfl
@[simp] theorem setPc_I (w : Word) : (s.setPc w).I = s.I := rfl
@[simp] theorem setPc_pc (w : Word) : (s.setPc w).pc = w := rfl
@[simp] theorem setPc_stack (w : Word) : (s.setPc w).stack = s.stack := rfl
@[simp] theorem setPc_dt (w : Word) : (s.setPc w).dt = s.dt := rfl
@[simp] theorem setPc_st (w : Word) : (s.setPc w).st = s.st := rfl
@[simp] theorem setPc_key (w : Word) : (s.setPc w).key = s.key := rfl
@[simp] theorem setPc_fb (w : Word) : (s.setPc w).fb = s.fb := rfl
@[simp] theorem setPc_waiting (w : Word) : (s.setPc w).waiting = s.waiting := rfl
@[simp] theorem setPc_waitReg (w : Word) : (s.setPc w).waitReg = s.waitReg := rfl
@[simp] theorem setPc_fault (w : Word) : (s.setPc w).fault = s.fault := rfl
@[simp] theorem setPc_mem (w : Word) : (s.setPc w).mem = s.mem := rfl
@[simp] theorem setPc_cfg (w : Word) : (s.setPc w).cfg = s.cfg := rfl
@[simp] theorem setPc_draws (w : Word) : (s.setPc w).draws = s.draws := rfl

/-! ### setDt -/

@[simp] theorem setDt_v (b : Byte) : (s.setDt b).v = s.v := rfl
@[simp] theorem setDt_I (b : Byte) : (s.setDt b).I = s.I := rfl
@[simp] theorem setDt_pc (b : Byte) : (s.setDt b).pc = s.pc := rfl
@[simp] theorem setDt_stack (b : Byte) : (s.setDt b).stack = s.stack := rfl
@[simp] theorem setDt_dt (b : Byte) : (s.setDt b).dt = b := rfl
@[simp] theorem setDt_st (b : Byte) : (s.setDt b).st = s.st := rfl
@[simp] theorem setDt_key (b : Byte) : (s.setDt b).key = s.key := rfl
@[simp] theorem setDt_fb (b : Byte) : (s.setDt b).fb = s.fb := rfl
@[simp] theorem setDt_waiting (b : Byte) : (s.setDt b).waiting = s.waiting := rfl
@[simp] theorem setDt_waitReg (b : Byte) : (s.setDt b).waitReg = s.waitReg := rfl
@[simp] theorem setDt_fault (b : Byte) : (s.setDt b).fault = s.fault := rfl
@[simp] theorem setDt_mem (b : Byte) : (s.setDt b).mem = s.mem := rfl
@[simp] theorem setDt_cfg (b : Byte) : (s.setDt b).cfg = s.cfg := rfl
@[simp] theorem setDt_draws (b : Byte) : (s.setDt b).draws = s.draws := rfl

/-! ### setSt -/

@[simp] theorem setSt_v (b : Byte) : (s.setSt b).v = s.v := rfl
@[simp] theorem setSt_I (b : Byte) : (s.setSt b).I = s.I := rfl
@[simp] theorem setSt_pc (b : Byte) : (s.setSt b).pc = s.pc := rfl
@[simp] theorem setSt_stack (b : Byte) : (s.setSt b).stack = s.stack := rfl
@[simp] theorem setSt_dt (b : Byte) : (s.setSt b).dt = s.dt := rfl
@[simp] theorem setSt_st (b : Byte) : (s.setSt b).st = b := rfl
@[simp] theorem setSt_key (b : Byte) : (s.setSt b).key = s.key := rfl
@[simp] theorem setSt_fb (b : Byte) : (s.setSt b).fb = s.fb := rfl
@[simp] theorem setSt_waiting (b : Byte) : (s.setSt b).waiting = s.waiting := rfl
@[simp] theorem setSt_waitReg (b : Byte) : (s.setSt b).waitReg = s.waitReg := rfl
@[simp] theorem setSt_fault (b : Byte) : (s.setSt b).fault = s.fault := rfl
@[simp] theorem setSt_mem (b : Byte) : (s.setSt b).mem = s.mem := rfl
@[simp] theorem setSt_cfg (b : Byte) : (s.setSt b).cfg = s.cfg := rfl
@[simp] theorem setSt_draws (b : Byte) : (s.setSt b).draws = s.draws := rfl

/-! ### setFb -/

@[simp] theorem setFb_v (fb : Framebuffer) : (s.setFb fb).v = s.v := rfl
@[simp] theorem setFb_I (fb : Framebuffer) : (s.setFb fb).I = s.I := rfl
@[simp] theorem setFb_pc (fb : Framebuffer) : (s.setFb fb).pc = s.pc := rfl
@[simp] theorem setFb_stack (fb : Framebuffer) : (s.setFb fb).stack = s.stack := rfl
@[simp] theorem setFb_dt (fb : Framebuffer) : (s.setFb fb).dt = s.dt := rfl
@[simp] theorem setFb_st (fb : Framebuffer) : (s.setFb fb).st = s.st := rfl
@[simp] theorem setFb_key (fb : Framebuffer) : (s.setFb fb).key = s.key := rfl
@[simp] theorem setFb_fb (fb : Framebuffer) : (s.setFb fb).fb = fb := rfl
@[simp] theorem setFb_waiting (fb : Framebuffer) : (s.setFb fb).waiting = s.waiting := rfl
@[simp] theorem setFb_waitReg (fb : Framebuffer) : (s.setFb fb).waitReg = s.waitReg := rfl
@[simp] theorem setFb_fault (fb : Framebuffer) : (s.setFb fb).fault = s.fault := rfl
@[simp] theorem setFb_mem (fb : Framebuffer) : (s.setFb fb).mem = s.mem := rfl
@[simp] theorem setFb_cfg (fb : Framebuffer) : (s.setFb fb).cfg = s.cfg := rfl
@[simp] theorem setFb_draws (fb : Framebuffer) : (s.setFb fb).draws = s.draws := rfl

/-! ### push -/

@[simp] theorem push_v (w : Word) : (s.push w).v = s.v := rfl
@[simp] theorem push_I (w : Word) : (s.push w).I = s.I := rfl
@[simp] theorem push_pc (w : Word) : (s.push w).pc = s.pc := rfl
@[simp] theorem push_stack (w : Word) : (s.push w).stack = w :: s.stack := rfl
@[simp] theorem push_dt (w : Word) : (s.push w).dt = s.dt := rfl
@[simp] theorem push_st (w : Word) : (s.push w).st = s.st := rfl
@[simp] theorem push_key (w : Word) : (s.push w).key = s.key := rfl
@[simp] theorem push_fb (w : Word) : (s.push w).fb = s.fb := rfl
@[simp] theorem push_waiting (w : Word) : (s.push w).waiting = s.waiting := rfl
@[simp] theorem push_waitReg (w : Word) : (s.push w).waitReg = s.waitReg := rfl
@[simp] theorem push_fault (w : Word) : (s.push w).fault = s.fault := rfl
@[simp] theorem push_mem (w : Word) : (s.push w).mem = s.mem := rfl
@[simp] theorem push_cfg (w : Word) : (s.push w).cfg = s.cfg := rfl
@[simp] theorem push_draws (w : Word) : (s.push w).draws = s.draws := rfl

/-! ### dropTop -/

@[simp] theorem dropTop_v : s.dropTop.v = s.v := rfl
@[simp] theorem dropTop_I : s.dropTop.I = s.I := rfl
@[simp] theorem dropTop_pc : s.dropTop.pc = s.pc := rfl
@[simp] theorem dropTop_stack : s.dropTop.stack = s.stack.tail := rfl
@[simp] theorem dropTop_dt : s.dropTop.dt = s.dt := rfl
@[simp] theorem dropTop_st : s.dropTop.st = s.st := rfl
@[simp] theorem dropTop_key : s.dropTop.key = s.key := rfl
@[simp] theorem dropTop_fb : s.dropTop.fb = s.fb := rfl
@[simp] theorem dropTop_waiting : s.dropTop.waiting = s.waiting := rfl
@[simp] theorem dropTop_waitReg : s.dropTop.waitReg = s.waitReg := rfl
@[simp] theorem dropTop_fault : s.dropTop.fault = s.fault := rfl
@[simp] theorem dropTop_mem : s.dropTop.mem = s.mem := rfl
@[simp] theorem dropTop_cfg : s.dropTop.cfg = s.cfg := rfl
@[simp] theorem dropTop_draws : s.dropTop.draws = s.draws := rfl

/-! ### beginWait -/

@[simp] theorem beginWait_v (r : RegIx) : (s.beginWait r).v = s.v := rfl
@[simp] theorem beginWait_I (r : RegIx) : (s.beginWait r).I = s.I := rfl
@[simp] theorem beginWait_pc (r : RegIx) : (s.beginWait r).pc = s.pc := rfl
@[simp] theorem beginWait_stack (r : RegIx) : (s.beginWait r).stack = s.stack := rfl
@[simp] theorem beginWait_dt (r : RegIx) : (s.beginWait r).dt = s.dt := rfl
@[simp] theorem beginWait_st (r : RegIx) : (s.beginWait r).st = s.st := rfl
@[simp] theorem beginWait_key (r : RegIx) : (s.beginWait r).key = s.key := rfl
@[simp] theorem beginWait_fb (r : RegIx) : (s.beginWait r).fb = s.fb := rfl
@[simp] theorem beginWait_waiting (r : RegIx) : (s.beginWait r).waiting = true := rfl
@[simp] theorem beginWait_waitReg (r : RegIx) : (s.beginWait r).waitReg = r := rfl
@[simp] theorem beginWait_fault (r : RegIx) : (s.beginWait r).fault = s.fault := rfl
@[simp] theorem beginWait_mem (r : RegIx) : (s.beginWait r).mem = s.mem := rfl
@[simp] theorem beginWait_cfg (r : RegIx) : (s.beginWait r).cfg = s.cfg := rfl
@[simp] theorem beginWait_draws (r : RegIx) : (s.beginWait r).draws = s.draws := rfl

/-! ### endWait -/

@[simp] theorem endWait_v : s.endWait.v = s.v := rfl
@[simp] theorem endWait_I : s.endWait.I = s.I := rfl
@[simp] theorem endWait_pc : s.endWait.pc = s.pc := rfl
@[simp] theorem endWait_stack : s.endWait.stack = s.stack := rfl
@[simp] theorem endWait_dt : s.endWait.dt = s.dt := rfl
@[simp] theorem endWait_st : s.endWait.st = s.st := rfl
@[simp] theorem endWait_key : s.endWait.key = s.key := rfl
@[simp] theorem endWait_fb : s.endWait.fb = s.fb := rfl
@[simp] theorem endWait_waiting : s.endWait.waiting = false := rfl
@[simp] theorem endWait_waitReg : s.endWait.waitReg = s.waitReg := rfl
@[simp] theorem endWait_fault : s.endWait.fault = s.fault := rfl
@[simp] theorem endWait_mem : s.endWait.mem = s.mem := rfl
@[simp] theorem endWait_cfg : s.endWait.cfg = s.cfg := rfl
@[simp] theorem endWait_draws : s.endWait.draws = s.draws := rfl

/-! ### countDraw -/

@[simp] theorem countDraw_v : s.countDraw.v = s.v := rfl
@[simp] theorem countDraw_I : s.countDraw.I = s.I := rfl
@[simp] theorem countDraw_pc : s.countDraw.pc = s.pc := rfl
@[simp] theorem countDraw_stack : s.countDraw.stack = s.stack := rfl
@[simp] theorem countDraw_dt : s.countDraw.dt = s.dt := rfl
@[simp] theorem countDraw_st : s.countDraw.st = s.st := rfl
@[simp] theorem countDraw_key : s.countDraw.key = s.key := rfl
@[simp] theorem countDraw_fb : s.countDraw.fb = s.fb := rfl
@[simp] theorem countDraw_waiting : s.countDraw.waiting = s.waiting := rfl
@[simp] theorem countDraw_waitReg : s.countDraw.waitReg = s.waitReg := rfl
@[simp] theorem countDraw_fault : s.countDraw.fault = s.fault := rfl
@[simp] theorem countDraw_mem : s.countDraw.mem = s.mem := rfl
@[simp] theorem countDraw_cfg : s.countDraw.cfg = s.cfg := rfl
@[simp] theorem countDraw_draws : s.countDraw.draws = s.draws + 1 := rfl

/-! ### withFault -/

@[simp] theorem withFault_v (k : Fault) : (s.withFault k).v = s.v := rfl
@[simp] theorem withFault_I (k : Fault) : (s.withFault k).I = s.I := rfl
@[simp] theorem withFault_pc (k : Fault) : (s.withFault k).pc = s.pc := rfl
@[simp] theorem withFault_stack (k : Fault) : (s.withFault k).stack = s.stack := rfl
@[simp] theorem withFault_dt (k : Fault) : (s.withFault k).dt = s.dt := rfl
@[simp] theorem withFault_st (k : Fault) : (s.withFault k).st = s.st := rfl
@[simp] theorem withFault_key (k : Fault) : (s.withFault k).key = s.key := rfl
@[simp] theorem withFault_fb (k : Fault) : (s.withFault k).fb = s.fb := rfl
@[simp] theorem withFault_waiting (k : Fault) : (s.withFault k).waiting = s.waiting := rfl
@[simp] theorem withFault_waitReg (k : Fault) : (s.withFault k).waitReg = s.waitReg := rfl
@[simp] theorem withFault_fault (k : Fault) : (s.withFault k).fault = some k := rfl
@[simp] theorem withFault_mem (k : Fault) : (s.withFault k).mem = s.mem := rfl
@[simp] theorem withFault_cfg (k : Fault) : (s.withFault k).cfg = s.cfg := rfl
@[simp] theorem withFault_draws (k : Fault) : (s.withFault k).draws = s.draws := rfl

/-! ### clearFault -/

@[simp] theorem clearFault_v : s.clearFault.v = s.v := rfl
@[simp] theorem clearFault_I : s.clearFault.I = s.I := rfl
@[simp] theorem clearFault_pc : s.clearFault.pc = s.pc := rfl
@[simp] theorem clearFault_stack : s.clearFault.stack = s.stack := rfl
@[simp] theorem clearFault_dt : s.clearFault.dt = s.dt := rfl
@[simp] theorem clearFault_st : s.clearFault.st = s.st := rfl
@[simp] theorem clearFault_key : s.clearFault.key = s.key := rfl
@[simp] theorem clearFault_fb : s.clearFault.fb = s.fb := rfl
@[simp] theorem clearFault_waiting : s.clearFault.waiting = s.waiting := rfl
@[simp] theorem clearFault_waitReg : s.clearFault.waitReg = s.waitReg := rfl
@[simp] theorem clearFault_fault : s.clearFault.fault = none := rfl
@[simp] theorem clearFault_mem : s.clearFault.mem = s.mem := rfl
@[simp] theorem clearFault_cfg : s.clearFault.cfg = s.cfg := rfl
@[simp] theorem clearFault_draws : s.clearFault.draws = s.draws := rfl

/-! ### writeKeys -/

@[simp] theorem writeKeys_v (keys : Keypad) : (s.writeKeys keys).v = s.v := rfl
@[simp] theorem writeKeys_I (keys : Keypad) : (s.writeKeys keys).I = s.I := rfl
@[simp] theorem writeKeys_pc (keys : Keypad) : (s.writeKeys keys).pc = s.pc := rfl
@[simp] theorem writeKeys_stack (keys : Keypad) : (s.writeKeys keys).stack = s.stack := rfl
@[simp] theorem writeKeys_dt (keys : Keypad) : (s.writeKeys keys).dt = s.dt := rfl
@[simp] theorem writeKeys_st (keys : Keypad) : (s.writeKeys keys).st = s.st := rfl
@[simp] theorem writeKeys_key (keys : Keypad) : (s.writeKeys keys).key = keys := rfl
@[simp] theorem writeKeys_fb (keys : Keypad) : (s.writeKeys keys).fb = s.fb := rfl
@[simp] theorem writeKeys_waiting (keys : Keypad) : (s.writeKeys keys).waiting = s.waiting := rfl
@[simp] theorem writeKeys_waitReg (keys : Keypad) : (s.writeKeys keys).waitReg = s.waitReg := rfl
@[simp] theorem writeKeys_fault (keys : Keypad) : (s.writeKeys keys).fault = s.fault := rfl
@[simp] theorem writeKeys_mem (keys : Keypad) : (s.writeKeys keys).mem = s.mem := rfl
@[simp] theorem writeKeys_cfg (keys : Keypad) : (s.writeKeys keys).cfg = s.cfg := rfl
@[simp] theorem writeKeys_draws (keys : Keypad) : (s.writeKeys keys).draws = s.draws := rfl

/-! ### storeBytes -/

@[simp] theorem storeBytes_v (a : Nat) (bs : List Byte) : (s.storeBytes a bs).v = s.v := rfl
@[simp] theorem storeBytes_I (a : Nat) (bs : List Byte) : (s.storeBytes a bs).I = s.I := rfl
@[simp] theorem storeBytes_pc (a : Nat) (bs : List Byte) : (s.storeBytes a bs).pc = s.pc := rfl
@[simp] theorem storeBytes_stack (a : Nat) (bs : List Byte) : (s.storeBytes a bs).stack = s.stack := rfl
@[simp] theorem storeBytes_dt (a : Nat) (bs : List Byte) : (s.storeBytes a bs).dt = s.dt := rfl
@[simp] theorem storeBytes_st (a : Nat) (bs : List Byte) : (s.storeBytes a bs).st = s.st := rfl
@[simp] theorem storeBytes_key (a : Nat) (bs : List Byte) : (s.storeBytes a bs).key = s.key := rfl
@[simp] theorem storeBytes_fb (a : Nat) (bs : List Byte) : (s.storeBytes a bs).fb = s.fb := rfl
@[simp] theorem storeBytes_waiting (a : Nat) (bs : List Byte) : (s.storeBytes a bs).waiting = s.waiting := rfl
@[simp] theorem storeBytes_waitReg (a : Nat) (bs : List Byte) : (s.storeBytes a bs).waitReg = s.waitReg := rfl
@[simp] theorem storeBytes_fault (a : Nat) (bs : List Byte) : (s.storeBytes a bs).fault = s.fault := rfl
@[simp] theorem storeBytes_mem (a : Nat) (bs : List Byte) : (s.storeBytes a bs).mem = Memory.writeAll s.cfg.font s.mem a bs := rfl
@[simp] theorem storeBytes_cfg (a : Nat) (bs : List Byte) : (s.storeBytes a bs).cfg = s.cfg := rfl
@[simp] theorem storeBytes_draws (a : Nat) (bs : List Byte) : (s.storeBytes a bs).draws = s.draws := rfl

/-! ### advance -/

@[simp] theorem advance_v : s.advance.v = s.v := rfl
@[simp] theorem advance_I : s.advance.I = s.I := rfl
@[simp] theorem advance_pc : s.advance.pc = s.pc + 2 := rfl
@[simp] theorem advance_stack : s.advance.stack = s.stack := rfl
@[simp] theorem advance_dt : s.advance.dt = s.dt := rfl
@[simp] theorem advance_st : s.advance.st = s.st := rfl
@[simp] theorem advance_key : s.advance.key = s.key := rfl
@[simp] theorem advance_fb : s.advance.fb = s.fb := rfl
@[simp] theorem advance_waiting : s.advance.waiting = s.waiting := rfl
@[simp] theorem advance_waitReg : s.advance.waitReg = s.waitReg := rfl
@[simp] theorem advance_fault : s.advance.fault = s.fault := rfl
@[simp] theorem advance_mem : s.advance.mem = s.mem := rfl
@[simp] theorem advance_cfg : s.advance.cfg = s.cfg := rfl
@[simp] theorem advance_draws : s.advance.draws = s.draws := rfl

end Sys2Proof.Machine.State
end

