-- ==== Sys2Proof/Laws/Memory.lean ====
section
/-!
SUPPORT. The laws of memory: a read after a write, the canonical form, and runs of bytes (20_memory.md R58, R59, R62).
The read laws hold of every list of cells, canonical or not.
-/

namespace Sys2Proof.Machine.Memory

variable (font : Vector Byte 80) (m : Memory) (a x : Nat) (b : Byte)

theorem lookup_insert : lookup (insert a b m) x = if x = a then some b else lookup m x := by
  induction m with
  | nil => simp [insert, lookup, eq_comm]
  | cons c m ih =>
    simp only [insert]
    split_ifs with h₁ h₂ <;> simp only [lookup, ih] <;> split_ifs <;> first | rfl | omega

theorem lookup_erase : lookup (erase a m) x = if x = a then none else lookup m x := by
  induction m with
  | nil => simp [erase, lookup]
  | cons c m ih =>
    simp only [erase]
    split_ifs with h₁ <;> simp only [lookup, ih] <;> split_ifs <;> simp_all

/-- R62: a read gives the byte last written there, and a write leaves every other address alone. -/
theorem read_write : read font (write font m a b) x = if x = a then b else read font m x := by
  simp only [read, write]
  split_ifs with h₁ h₂ h₂ <;> simp_all [lookup_insert, lookup_erase]

/-- What a run of stored bytes reads as: everything `writeAll` can do. -/
theorem read_writeAll (bs : List Byte) :
    read font (writeAll font m a bs) x = if a ≤ x then (bs[x - a]?).getD (read font m x) else read font m x := by
  induction bs generalizing m a with
  | nil => simp [writeAll]
  | cons b bs ih =>
    rw [writeAll, ih, read_write]
    rcases Nat.lt_trichotomy a x with h | h | h
    · obtain ⟨k, rfl⟩ := Nat.exists_eq_add_of_lt h
      have h₁ : a + k + 1 - (a + 1) = k := by omega
      have h₂ : a + k + 1 - a = k + 1 := by omega
      simp [h₁, h₂, show a ≤ a + k by omega, show a ≤ a + k + 1 by omega, show a + k + 1 ≠ a by omega]
    · subst h; simp
    · simp [show ¬ a ≤ x by omega, show ¬ a + 1 ≤ x by omega, show x ≠ a by omega]

theorem wf_nil : wf font [] := by simp [wf]

theorem mem_insert {c : Host.Cell} (h : c ∈ insert a b m) : c = (a, b) ∨ c ∈ m := by
  induction m with
  | nil => simpa [insert] using h
  | cons d m ih =>
    simp only [insert] at h
    split_ifs at h <;> simp only [List.mem_cons] at h ⊢ <;> tauto

theorem mem_erase {c : Host.Cell} (h : c ∈ erase a m) : c ∈ m := by
  induction m with
  | nil => simp [erase] at h
  | cons d m ih =>
    simp only [erase] at h
    split_ifs at h <;> simp only [List.mem_cons] at h ⊢ <;> tauto

theorem insert_sorted (h : m.Pairwise (fun c d => c.1 < d.1)) :
    (insert a b m).Pairwise (fun c d => c.1 < d.1) := by
  induction m with
  | nil => simp [insert]
  | cons d m ih =>
    obtain ⟨hd, hm⟩ := List.pairwise_cons.mp h
    simp only [insert]
    split_ifs with h₁ h₂
    · refine List.pairwise_cons.mpr ⟨fun c hc => ?_, h⟩
      rcases List.mem_cons.mp hc with rfl | hc
      · exact h₁
      · exact Nat.lt_trans h₁ (hd c hc)
    · exact List.pairwise_cons.mpr ⟨fun c hc => h₂ ▸ hd c hc, hm⟩
    · refine List.pairwise_cons.mpr ⟨fun c hc => ?_, ih hm⟩
      rcases mem_insert m a b hc with rfl | hc
      · show d.1 < a
        omega
      · exact hd c hc

theorem erase_sorted (h : m.Pairwise (fun c d => c.1 < d.1)) :
    (erase a m).Pairwise (fun c d => c.1 < d.1) := by
  induction m with
  | nil => simp [erase]
  | cons d m ih =>
    obtain ⟨hd, hm⟩ := List.pairwise_cons.mp h
    simp only [erase]
    split_ifs with h₁
    · exact ih hm
    · exact List.pairwise_cons.mpr ⟨fun c hc => hd c (mem_erase m a hc), ih hm⟩

/-- A write inside the address space keeps the canonical form. -/
theorem wf_write (h : wf font m) (ha : a < memSize) : wf font (write font m a b) := by
  unfold write
  split_ifs with hb
  · exact ⟨erase_sorted m a h.1, fun c hc => h.2 c (mem_erase m a hc)⟩
  · refine ⟨insert_sorted m a b h.1, fun c hc => ?_⟩
    rcases mem_insert m a b hc with rfl | hc
    · exact ⟨ha, hb⟩
    · exact h.2 c hc

/-- A run of bytes stored inside the address space keeps the canonical form. -/
theorem wf_writeAll (bs : List Byte) (h : wf font m) (ha : a + bs.length ≤ memSize) :
    wf font (writeAll font m a bs) := by
  induction bs generalizing m a with
  | nil => exact h
  | cons b bs ih =>
    simp only [List.length_cons] at ha
    exact ih _ _ (wf_write font m a b h (by omega)) (by omega)

theorem initByte_font (j : Nat) (h : j < 80) : initByte font (0x50 + j) = font[j] := by
  simp [initByte, fontBase, show 80 + j < 160 by omega]

theorem initByte_zero (h : ¬ (0x50 ≤ a ∧ a < 0xA0)) : initByte font a = 0 := by
  unfold initByte fontBase
  exact dif_neg (by omega)

end Sys2Proof.Machine.Memory

namespace Sys2Proof.Machine.State

variable (s : State)

/-- What a run of stored bytes reads as (R58, R62). -/
theorem readByte_storeBytes (a x : Nat) (bs : List Byte) :
    (s.storeBytes a bs).readByte x = if a ≤ x then (bs[x - a]?).getD (s.readByte x) else s.readByte x :=
  Memory.read_writeAll ..

/-- An address outside a run of stored bytes reads as before. -/
theorem readByte_storeBytes_outside (a x : Nat) (bs : List Byte) (h : x < a ∨ a + bs.length ≤ x) :
    (s.storeBytes a bs).readByte x = s.readByte x := by
  rw [readByte_storeBytes]
  split_ifs with h₁
  · rw [List.getElem?_eq_none (by omega)]; rfl
  · rfl

/-- The k-th stored byte. -/
theorem readByte_storeBytes_inside (a k : Nat) (bs : List Byte) (h : k < bs.length) :
    (s.storeBytes a bs).readByte (a + k) = bs[k] := by
  simp [readByte_storeBytes, h]

@[simp] theorem length_readBytes (a n : Nat) : (s.readBytes a n).length = n := by
  induction n generalizing a with
  | zero => rfl
  | succ n ih => simp [readBytes, ih]

/-- The k-th byte of a run of reads (R58). -/
theorem readBytes_getElem? (a n k : Nat) :
    (s.readBytes a n)[k]? = if k < n then some (s.readByte (a + k)) else none := by
  induction n generalizing a k with
  | zero => simp [readBytes]
  | succ n ih =>
    cases k with
    | zero => simp [readBytes]
    | succ k => simp [readBytes, ih, Nat.add_comm, Nat.add_left_comm]

theorem readByte_reset (a : Nat) : reset.readByte a = Memory.initByte reset.cfg.font a := rfl

end Sys2Proof.Machine.State
end

