-- ==== Sys2Proof/Laws/Registers.lean ====
section
/-!
SUPPORT. The laws of the register operations, of the flag write, the skip and the key scan, and what each update leaves of a
register read and of a byte read.
-/

namespace Sys2Proof.Machine.State

variable (s : State)

/-! ## Reading after writing -/

/-- A register read after a register write (R21: no register is hardwired). -/
theorem readV_writeV (r q : RegIx) (b : Byte) : (s.writeV r b).readV q = if q = r then b else s.readV q := by
  simp only [readV, writeV_v, Fin.getElem_fin, Vector.getElem_set, Fin.ext_iff, eq_comm]

@[simp] theorem readV_writeV_same (r : RegIx) (b : Byte) : (s.writeV r b).readV r = b := by simp [readV_writeV]

theorem readV_writeV_other {r q : RegIx} (b : Byte) (h : q ≠ r) : (s.writeV r b).readV q = s.readV q := by
  simp [readV_writeV, h]

/-- R96: V[X] is written first and VF last, so VF holds the flag also when X = F. -/
theorem readV_writeWithFlag (x q : RegIx) (b : Byte) (f : Bool) :
    (s.writeWithFlag x b f).readV q = if q = 15 then flagByte f else if q = x then b else s.readV q := by
  simp only [writeWithFlag, readV_writeV, VF]

/-- R211: the block load. -/
theorem readV_setV_regsFromMemory (x r : RegIx) :
    (s.setV (s.regsFromMemory x)).readV r = if r ≤ x then s.readByte (s.I.toNat + r.val) else s.readV r := by
  simp [readV, setV, regsFromMemory, dataAddr]

/-- A taken or untaken skip is one write of pc (R111). -/
theorem skipIf_eq (c : Bool) : s.skipIf c = s.setPc (if c then s.pc + 2 else s.pc) := by
  cases c <;> rfl

/-- V0..VX in order (R210). -/
theorem firstRegs_getElem? (x : RegIx) (k : Nat) :
    (s.firstRegs x)[k]? = if h : k ≤ x.val then some (s.readV ⟨k, by omega⟩) else none := by
  have hx := x.isLt
  by_cases h : k ≤ x.val
  · simp [firstRegs, regCount, readV, h, Nat.lt_succ_of_le h]
  · simp [firstRegs, regCount, h, show ¬ k < x.val + 1 by omega]

@[simp] theorem length_firstRegs (x : RegIx) : (s.firstRegs x).length = x.val + 1 := by
  have hx := x.isLt
  simp [firstRegs, regCount]

/-! ## The key scan (R202, R212, R214) -/

theorem keyAt_of_toNat_eq {b : Byte} {k : RegIx} (h : b.toNat = k.val) : s.keyAt b = some s.key[k] := by
  simp [keyAt, h]

theorem keyAt_above {b : Byte} (h : b.toNat > 15) : s.keyAt b = none := by
  simp [keyAt]; omega

theorem lowestKey_eq_none (h : ∀ k : RegIx, s.key[k] = false) : s.lowestKey = none := by
  simp only [lowestKey, List.find?_eq_none]
  exact fun k _ => by simpa using h k

theorem lowestKey_eq_some {k : RegIx} (h : s.key[k] = true) (hlow : ∀ j : RegIx, j < k → s.key[j] = false) :
    s.lowestKey = some k := by
  have key : ∀ l : List RegIx, l.Pairwise (· < ·) → k ∈ l → l.find? (fun j => s.key[j]) = some k := by
    intro l hl hk
    induction l with
    | nil => simp at hk
    | cons j l ih =>
      obtain ⟨hj, hl⟩ := List.pairwise_cons.mp hl
      rcases List.mem_cons.mp hk with rfl | hk
      · exact List.find?_cons_of_pos (p := fun j => s.key[j]) h
      · have : s.key[j] = false := hlow j (hj k hk)
        rw [List.find?_cons_of_neg (by simp [this])]
        exact ih hl hk
  exact key _ (List.pairwise_lt_finRange 16) (List.mem_finRange k)

/-! ## What other updates leave of a register read and of a byte read -/

theorem readV_congr {s t : State} (h : t.v = s.v) (r : RegIx) : t.readV r = s.readV r := by simp only [readV, h]

theorem readByte_congr {s t : State} (hm : t.mem = s.mem) (hc : t.cfg = s.cfg) (a : Nat) :
    t.readByte a = s.readByte a := by
  simp only [readByte, hm, hc]

/-- The two bytes of a data range check in numbers (R59). -/
theorem dataInRange_iff (n : Nat) : s.dataInRange n = true ↔ n = 0 ∨ s.I.toNat + n - 1 ≤ 4095 := by
  cases n with
  | zero => simp [dataInRange]
  | succ n => simp [dataInRange, dataAddr, ← Nat.add_assoc]

theorem mem_dataAddrs (n a : Nat) : a ∈ s.dataAddrs n ↔ s.I.toNat ≤ a ∧ a < s.I.toNat + n := by
  simp only [dataAddrs, List.mem_map, List.mem_range, dataAddr]
  constructor
  · rintro ⟨k, hk, rfl⟩; omega
  · rintro ⟨h₁, h₂⟩; exact ⟨a - s.I.toNat, by omega, by omega⟩

theorem stackFull_iff : s.stackFull = true ↔ s.cfg.stackDepth = some s.stack.length := by simp [stackFull]

theorem fetchInRange_iff : s.fetchInRange = true ↔ s.pc.toNat ≤ 4094 := by
  simp [fetchInRange]; omega

end Sys2Proof.Machine.State
end

