-- ==== Sys2Proof/Laws/Drawing.lean ====
section
/-!
SUPPORT. The laws of the framebuffer and of the sprite loop (43_family_9_to_D.md R174–R176): what one bit, one row and a
whole sprite do to each pixel and to the collision.
-/

namespace Sys2Proof.Machine

namespace Framebuffer

variable (fb : Framebuffer)

theorem pixel_toggle (x px : Fin 64) (y py : Fin 32) :
    (fb.toggle x y).pixel px py = (fb.pixel px py ^^ decide (px = x ∧ py = y)) := by
  simp only [pixel, toggle, Fin.getElem_fin, Vector.getElem_set]
  by_cases hy : y.val = py.val <;> by_cases hx : x.val = px.val
  · simp [hy, hx, Fin.ext_iff]
  · have : ¬ px.val = x.val := fun h => hx h.symm
    simp [hy, hx, Fin.ext_iff, this]
  · have : ¬ py.val = y.val := fun h => hy h.symm
    simp [hy, Fin.ext_iff, this]
  · have : ¬ py.val = y.val := fun h => hy h.symm
    simp [hy, Fin.ext_iff, this]

@[simp] theorem pixel_clear (x : Fin 64) (y : Fin 32) : Framebuffer.clear.pixel x y = false := by
  simp [pixel, Framebuffer.clear]

/-- Two framebuffers with the same pixels are equal. -/
theorem ext_pixel {fb fb' : Framebuffer} (h : ∀ x y, fb.pixel x y = fb'.pixel x y) : fb = fb' := by
  apply Vector.ext; intro i hi
  apply Vector.ext; intro j hj
  exact h ⟨j, hj⟩ ⟨i, hi⟩

end Framebuffer

namespace Drawing

/-- The column of a pixel counted from the anchor column, with wraparound (R175). -/
def column (xs : Nat) (px : Fin 64) : Nat := (px.val + 64 - xs % 64) % 64

/-- The row of a pixel counted from the anchor row, with wraparound (R175). -/
def line (ys : Nat) (py : Fin 32) : Nat := (py.val + 32 - ys % 32) % 32

/-- The pixel is drawn on by row `r`, whose byte is `b`, in a column below `m`. -/
def rowHit (xs ys r : Nat) (b : Byte) (m : Nat) (px : Fin 64) (py : Fin 32) : Bool :=
  decide (line ys py = r) && decide (column xs px < m) && b.getLsbD (7 - column xs px)

/-- The pixel is drawn on by one of the rows `bs`, the first of which is row `r`. -/
def rowsHit (xs ys r : Nat) (bs : List Byte) (px : Fin 64) (py : Fin 32) : Bool :=
  decide (r ≤ line ys py) && (bs[line ys py - r]?).any fun b => decide (column xs px < 8) && b.getLsbD (7 - column xs px)

theorem ofNat_eq_iff_column (xs c : Nat) (px : Fin 64) (hc : c < 64) :
    px = Fin.ofNat 64 (xs + c) ↔ column xs px = c := by
  have := px.isLt
  simp only [Fin.ext_iff, Fin.ofNat, column]; omega

theorem ofNat_eq_iff_line (ys r : Nat) (py : Fin 32) (hr : r < 32) :
    py = Fin.ofNat 32 (ys + r) ↔ line ys py = r := by
  have := py.isLt
  simp only [Fin.ext_iff, Fin.ofNat, line]; omega

/-- A pixel at given distances from the anchor. -/
theorem exists_at (xs ys c r : Nat) (hc : c < 64) (hr : r < 32) : ∃ px py, column xs px = c ∧ line ys py = r :=
  ⟨_, _, (ofNat_eq_iff_column xs c _ hc).mp rfl, (ofNat_eq_iff_line ys r _ hr).mp rfl⟩

/-- The columns below `m` of one row: each pixel is XORed with the row's bit there, and a collision is a pixel that was
on before the row. -/
theorem foldl_bit (xs ys r : Nat) (b : Byte) (d : Drawing) (hr : r < 32) (m : Nat) (hm : m ≤ 8) :
    (∀ px py, ((List.range m).foldl (bit xs ys r b) d).fb.pixel px py = (d.fb.pixel px py ^^ rowHit xs ys r b m px py)) ∧
    (((List.range m).foldl (bit xs ys r b) d).collided = true ↔
      d.collided = true ∨ ∃ px py, rowHit xs ys r b m px py = true ∧ d.fb.pixel px py = true) := by
  induction m with
  | zero => simp [rowHit]
  | succ m ih =>
    obtain ⟨ihp, ihc⟩ := ih (by omega)
    rw [List.range_succ, List.foldl_append]
    generalize (List.range m).foldl (bit xs ys r b) d = e at ihp ihc ⊢
    simp only [List.foldl_cons, List.foldl_nil, bit]
    have hit : ∀ px py, rowHit xs ys r b (m + 1) px py =
        (rowHit xs ys r b m px py || (decide (line ys py = r) && decide (column xs px = m) && b.getLsbD (7 - m))) := by
      intro px py
      simp only [rowHit]
      by_cases h : column xs px = m
      · simp [h]
      · by_cases h' : column xs px < m
        · simp [h, h', show column xs px < m + 1 by omega]
        · simp [h, h', show ¬ column xs px < m + 1 by omega]
    by_cases hb : b.getLsbD (7 - m) = true
    · simp only [hb, if_true]
      refine ⟨fun px py => ?_, ?_⟩
      · rw [Framebuffer.pixel_toggle, ihp, hit, hb]
        simp only [ofNat_eq_iff_column xs m px (by omega), ofNat_eq_iff_line ys r py hr]
        by_cases h : column xs px = m <;> by_cases h' : line ys py = r <;> simp [rowHit, h, h']
      · obtain ⟨px, py, hx, hy⟩ := exists_at xs ys m r (by omega) hr
        have ex := (ofNat_eq_iff_column xs m px (by omega)).mpr hx
        have ey := (ofNat_eq_iff_line ys r py hr).mpr hy
        rw [← ex, ← ey, Bool.or_eq_true, ihc, ihp]
        have hno : rowHit xs ys r b m px py = false := by simp [rowHit, hx]
        rw [hno, Bool.xor_false]
        constructor
        · rintro ((h | ⟨qx, qy, h₁, h₂⟩) | h)
          · exact .inl h
          · exact .inr ⟨qx, qy, by simp [hit, h₁], h₂⟩
          · exact .inr ⟨px, py, by simp [hit, hx, hy, hb], h⟩
        · rintro (h | ⟨qx, qy, h₁, h₂⟩)
          · exact .inl (.inl h)
          · rw [hit, Bool.or_eq_true] at h₁
            rcases h₁ with h₁ | h₁
            · exact .inl (.inr ⟨qx, qy, h₁, h₂⟩)
            · simp only [Bool.and_eq_true, decide_eq_true_eq] at h₁
              have ex' := (ofNat_eq_iff_column xs m qx (by omega)).mpr h₁.1.2
              have ey' := (ofNat_eq_iff_line ys r qy hr).mpr h₁.1.1
              exact .inr (by rw [ex, ey, ← ex', ← ey']; exact h₂)
    · simp only [hb]
      have hit' : ∀ px py, rowHit xs ys r b (m + 1) px py = rowHit xs ys r b m px py := by
        intro px py; simp [hit, hb]
      simp only [hit']
      exact ⟨ihp, ihc⟩

/-- One row of a sprite. -/
theorem row_spec (xs ys r : Nat) (b : Byte) (d : Drawing) (hr : r < 32) :
    (∀ px py, (row xs ys r b d).fb.pixel px py = (d.fb.pixel px py ^^ rowHit xs ys r b 8 px py)) ∧
    ((row xs ys r b d).collided = true ↔
      d.collided = true ∨ ∃ px py, rowHit xs ys r b 8 px py = true ∧ d.fb.pixel px py = true) :=
  foldl_bit xs ys r b d hr 8 (Nat.le_refl 8)

theorem rowsHit_cons (xs ys r : Nat) (b : Byte) (bs : List Byte) (px : Fin 64) (py : Fin 32) :
    rowsHit xs ys r (b :: bs) px py = (rowHit xs ys r b 8 px py || rowsHit xs ys (r + 1) bs px py) ∧
    ¬ (rowHit xs ys r b 8 px py = true ∧ rowsHit xs ys (r + 1) bs px py = true) := by
  simp only [rowsHit, rowHit]
  rcases Nat.lt_trichotomy (line ys py) r with h | h | h
  · simp [show ¬ r ≤ line ys py by omega, show line ys py ≠ r by omega, show ¬ r + 1 ≤ line ys py by omega]
  · simp [h]
  · obtain ⟨k, hk⟩ := Nat.exists_eq_add_of_lt h
    simp [hk, show r + k + 1 ≠ r by omega, show r + k + 1 - r = k + 1 by omega,
      show r + k + 1 - (r + 1) = k by omega, show r ≤ r + k by omega, show r ≤ r + k + 1 by omega]

/-- The rows of a sprite that is at most as tall as the framebuffer: each pixel is XORed with the sprite's bit there, and
a collision is a pixel that was on before (R176: each pixel is toggled at most once). -/
theorem rows_spec (xs ys r : Nat) (bs : List Byte) (d : Drawing) (h : r + bs.length ≤ 32) :
    (∀ px py, (rows xs ys r bs d).fb.pixel px py = (d.fb.pixel px py ^^ rowsHit xs ys r bs px py)) ∧
    ((rows xs ys r bs d).collided = true ↔
      d.collided = true ∨ ∃ px py, rowsHit xs ys r bs px py = true ∧ d.fb.pixel px py = true) := by
  induction bs generalizing r d with
  | nil => simp [rows, rowsHit]
  | cons b bs ih =>
    simp only [List.length_cons] at h
    obtain ⟨rp, rc⟩ := row_spec xs ys r b d (by omega)
    obtain ⟨ip, ic⟩ := ih (r + 1) (row xs ys r b d) (by omega)
    rw [rows]
    have cons := rowsHit_cons xs ys r b bs
    refine ⟨fun px py => ?_, ?_⟩
    · obtain ⟨e, ne⟩ := cons px py
      rw [ip, rp, e]
      cases h₁ : rowHit xs ys r b 8 px py <;> cases h₂ : rowsHit xs ys (r + 1) bs px py <;> simp_all
    · rw [ic, rc]
      constructor
      · rintro ((h | ⟨px, py, h₁, h₂⟩) | ⟨px, py, h₁, h₂⟩)
        · exact .inl h
        · exact .inr ⟨px, py, by simp [(cons px py).1, h₁], h₂⟩
        · have hn : rowHit xs ys r b 8 px py = false := by
            have := (cons px py).2; simp_all
          rw [rp, hn, Bool.xor_false] at h₂
          exact .inr ⟨px, py, by simp [(cons px py).1, h₁], h₂⟩
      · rintro (h | ⟨px, py, h₁, h₂⟩)
        · exact .inl (.inl h)
        · obtain ⟨e, ne⟩ := cons px py
          rw [e, Bool.or_eq_true] at h₁
          rcases h₁ with h₁ | h₁
          · exact .inl (.inr ⟨px, py, h₁, h₂⟩)
          · refine .inr ⟨px, py, h₁, ?_⟩
            have hn : rowHit xs ys r b 8 px py = false := by simp_all
            rw [rp, hn, Bool.xor_false]; exact h₂

end Drawing

/-- A whole sprite of at most 32 rows (R174–R176): everything `drawSprite` can do. -/
theorem drawSprite_spec (xs ys : Nat) (bs : List Byte) (fb : Framebuffer) (h : bs.length ≤ 32) :
    (∀ px py, (drawSprite xs ys bs fb).fb.pixel px py = (fb.pixel px py ^^ Drawing.rowsHit xs ys 0 bs px py)) ∧
    ((drawSprite xs ys bs fb).collided = true ↔
      ∃ px py, Drawing.rowsHit xs ys 0 bs px py = true ∧ fb.pixel px py = true) := by
  have := Drawing.rows_spec xs ys 0 bs { fb := fb, collided := false } (by omega)
  simpa [drawSprite] using this

end Sys2Proof.Machine
end

