-- ==== Sys2Proof/Laws/PerInstr.lean ====
section
/-!
SUPPORT. One fact about every instruction as syntax: its encoding lies in its own row of the opcode table, and the fallback
row's in none (30_encoding.md R74, R77).
-/

namespace Sys2Proof.Laws.EncodesInRow

open Sys2Proof

/-- The row of the opcode table an instruction is written in; the fallback has none (R74). -/
def rowOf : Instr → Option OpRow
  | .cls => some ⟨0xFFFF, 0x00E0⟩
  | .ret => some ⟨0xFFFF, 0x00EE⟩
  | .jp _ => some ⟨0xF000, 0x1000⟩
  | .call _ => some ⟨0xF000, 0x2000⟩
  | .seImm _ _ => some ⟨0xF000, 0x3000⟩
  | .sneImm _ _ => some ⟨0xF000, 0x4000⟩
  | .seReg _ _ => some ⟨0xF00F, 0x5000⟩
  | .ldImm _ _ => some ⟨0xF000, 0x6000⟩
  | .addImm _ _ => some ⟨0xF000, 0x7000⟩
  | .ldReg _ _ => some ⟨0xF00F, 0x8000⟩
  | .orReg _ _ => some ⟨0xF00F, 0x8001⟩
  | .andReg _ _ => some ⟨0xF00F, 0x8002⟩
  | .xorReg _ _ => some ⟨0xF00F, 0x8003⟩
  | .addReg _ _ => some ⟨0xF00F, 0x8004⟩
  | .subReg _ _ => some ⟨0xF00F, 0x8005⟩
  | .shr _ _ => some ⟨0xF00F, 0x8006⟩
  | .subn _ _ => some ⟨0xF00F, 0x8007⟩
  | .shl _ _ => some ⟨0xF00F, 0x800E⟩
  | .sneReg _ _ => some ⟨0xF00F, 0x9000⟩
  | .ldI _ => some ⟨0xF000, 0xA000⟩
  | .jpV0 _ => some ⟨0xF000, 0xB000⟩
  | .rnd _ _ => some ⟨0xF000, 0xC000⟩
  | .drw _ _ _ => some ⟨0xF000, 0xD000⟩
  | .skp _ => some ⟨0xF0FF, 0xE09E⟩
  | .sknp _ => some ⟨0xF0FF, 0xE0A1⟩
  | .ldVxDT _ => some ⟨0xF0FF, 0xF007⟩
  | .ldVxK _ => some ⟨0xF0FF, 0xF00A⟩
  | .ldDTVx _ => some ⟨0xF0FF, 0xF015⟩
  | .ldSTVx _ => some ⟨0xF0FF, 0xF018⟩
  | .addI _ => some ⟨0xF0FF, 0xF01E⟩
  | .ldF _ => some ⟨0xF0FF, 0xF029⟩
  | .ldB _ => some ⟨0xF0FF, 0xF033⟩
  | .stRegs _ => some ⟨0xF0FF, 0xF055⟩
  | .ldRegs _ => some ⟨0xF0FF, 0xF065⟩
  | .nop _ => none

/-- The row of `i` is in the table and covers the word of `i`; a well-formed fallback's word is covered by no row. -/
def Statement (i : Instr) : Prop :=
  match rowOf i with
  | some row => row ∈ opRows ∧ row.covers (encode i) = true
  | none => WellFormed i = true → recognized (encode i) = false

/-! ## A word under the mask of its format -/

variable (f : Nibble) (x y : RegIx) (n : Nibble) (nn : Byte) (nnn : Addr12)

theorem covers_nnn : OpRow.covers ⟨0xF000, packNNN f 0⟩ (packNNN f nnn) = true := by
  have h : packNNN f nnn &&& 0xF000#16 = packNNN f 0 := BitVec.eq_of_toNat_eq (by
    have := nnn.isLt
    rw [and_F000, packNNN_toNat, packNNN_toNat]
    simp only [BitVec.reduceToNat]
    omega)
  simpa [OpRow.covers] using h

theorem covers_xnn : OpRow.covers ⟨0xF000, packXNN f 0 0⟩ (packXNN f x nn) = true := by
  have h : packXNN f x nn &&& 0xF000#16 = packXNN f 0 0 := BitVec.eq_of_toNat_eq (by
    have := x.isLt; have := nn.isLt
    rw [and_F000, packXNN_toNat, packXNN_toNat]
    simp only [BitVec.reduceToNat, Fin.val_zero]
    omega)
  simpa [OpRow.covers] using h

theorem covers_xyn : OpRow.covers ⟨0xF000, packXYN f 0 0 0⟩ (packXYN f x y n) = true := by
  have h : packXYN f x y n &&& 0xF000#16 = packXYN f 0 0 0 := BitVec.eq_of_toNat_eq (by
    have := x.isLt; have := y.isLt; have := n.isLt
    rw [and_F000, packXYN_toNat, packXYN_toNat]
    simp only [BitVec.reduceToNat, Fin.val_zero]
    omega)
  simpa [OpRow.covers] using h

theorem covers_xy : OpRow.covers ⟨0xF00F, packXYN f 0 0 n⟩ (packXYN f x y n) = true := by
  have h : packXYN f x y n &&& 0xF00F#16 = packXYN f 0 0 n := BitVec.eq_of_toNat_eq (by
    have := x.isLt; have := y.isLt; have := n.isLt
    rw [and_F00F, packXYN_toNat, packXYN_toNat]
    simp only [Fin.val_zero]
    omega)
  simpa [OpRow.covers] using h

theorem covers_x : OpRow.covers ⟨0xF0FF, packXNN f 0 nn⟩ (packXNN f x nn) = true := by
  have h : packXNN f x nn &&& 0xF0FF#16 = packXNN f 0 nn := BitVec.eq_of_toNat_eq (by
    have := x.isLt; have := nn.isLt
    rw [and_F0FF, packXNN_toNat, packXNN_toNat]
    simp only [Fin.val_zero]
    omega)
  simpa [OpRow.covers] using h

/-! ## One lemma per constructor -/

theorem cls : Statement .cls := ⟨by decide, by decide⟩
theorem ret : Statement .ret := ⟨by decide, by decide⟩
theorem jp (nnn : Addr12) : Statement (.jp nnn) := ⟨by decide, covers_nnn 0x1 nnn⟩
theorem call (nnn : Addr12) : Statement (.call nnn) := ⟨by decide, covers_nnn 0x2 nnn⟩
theorem seImm (x : RegIx) (nn : Byte) : Statement (.seImm x nn) := ⟨by decide, covers_xnn 0x3 x nn⟩
theorem sneImm (x : RegIx) (nn : Byte) : Statement (.sneImm x nn) := ⟨by decide, covers_xnn 0x4 x nn⟩
theorem seReg (x y : RegIx) : Statement (.seReg x y) := ⟨by decide, covers_xy 0x5 x y 0x0⟩
theorem ldImm (x : RegIx) (nn : Byte) : Statement (.ldImm x nn) := ⟨by decide, covers_xnn 0x6 x nn⟩
theorem addImm (x : RegIx) (nn : Byte) : Statement (.addImm x nn) := ⟨by decide, covers_xnn 0x7 x nn⟩
theorem ldReg (x y : RegIx) : Statement (.ldReg x y) := ⟨by decide, covers_xy 0x8 x y 0x0⟩
theorem orReg (x y : RegIx) : Statement (.orReg x y) := ⟨by decide, covers_xy 0x8 x y 0x1⟩
theorem andReg (x y : RegIx) : Statement (.andReg x y) := ⟨by decide, covers_xy 0x8 x y 0x2⟩
theorem xorReg (x y : RegIx) : Statement (.xorReg x y) := ⟨by decide, covers_xy 0x8 x y 0x3⟩
theorem addReg (x y : RegIx) : Statement (.addReg x y) := ⟨by decide, covers_xy 0x8 x y 0x4⟩
theorem subReg (x y : RegIx) : Statement (.subReg x y) := ⟨by decide, covers_xy 0x8 x y 0x5⟩
theorem shr (x y : RegIx) : Statement (.shr x y) := ⟨by decide, covers_xy 0x8 x y 0x6⟩
theorem subn (x y : RegIx) : Statement (.subn x y) := ⟨by decide, covers_xy 0x8 x y 0x7⟩
theorem shl (x y : RegIx) : Statement (.shl x y) := ⟨by decide, covers_xy 0x8 x y 0xE⟩
theorem sneReg (x y : RegIx) : Statement (.sneReg x y) := ⟨by decide, covers_xy 0x9 x y 0x0⟩
theorem ldI (nnn : Addr12) : Statement (.ldI nnn) := ⟨by decide, covers_nnn 0xA nnn⟩
theorem jpV0 (nnn : Addr12) : Statement (.jpV0 nnn) := ⟨by decide, covers_nnn 0xB nnn⟩
theorem rnd (x : RegIx) (nn : Byte) : Statement (.rnd x nn) := ⟨by decide, covers_xnn 0xC x nn⟩
theorem drw (x y : RegIx) (n : Nibble) : Statement (.drw x y n) := ⟨by decide, covers_xyn 0xD x y n⟩
theorem skp (x : RegIx) : Statement (.skp x) := ⟨by decide, covers_x 0xE x 0x9E⟩
theorem sknp (x : RegIx) : Statement (.sknp x) := ⟨by decide, covers_x 0xE x 0xA1⟩
theorem ldVxDT (x : RegIx) : Statement (.ldVxDT x) := ⟨by decide, covers_x 0xF x 0x07⟩
theorem ldVxK (x : RegIx) : Statement (.ldVxK x) := ⟨by decide, covers_x 0xF x 0x0A⟩
theorem ldDTVx (x : RegIx) : Statement (.ldDTVx x) := ⟨by decide, covers_x 0xF x 0x15⟩
theorem ldSTVx (x : RegIx) : Statement (.ldSTVx x) := ⟨by decide, covers_x 0xF x 0x18⟩
theorem addI (x : RegIx) : Statement (.addI x) := ⟨by decide, covers_x 0xF x 0x1E⟩
theorem ldF (x : RegIx) : Statement (.ldF x) := ⟨by decide, covers_x 0xF x 0x29⟩
theorem ldB (x : RegIx) : Statement (.ldB x) := ⟨by decide, covers_x 0xF x 0x33⟩
theorem stRegs (x : RegIx) : Statement (.stRegs x) := ⟨by decide, covers_x 0xF x 0x55⟩
theorem ldRegs (x : RegIx) : Statement (.ldRegs x) := ⟨by decide, covers_x 0xF x 0x65⟩
theorem nop (w : Word) : Statement (.nop w) := fun h => by simpa [WellFormed, encode] using h

end Sys2Proof.Laws.EncodesInRow
end

