-- ==== Sys2Proof/Laws/Runs.lean ====
section
/-!
SUPPORT. Runs of the host's operations, and the byte a run leaves alone (60_exceptions.md R251, 20_memory.md R51).
-/

namespace Sys2Proof.Machine

@[simp] theorem runOps_nil (s : State) : runOps [] s = .next s := rfl

theorem runOps_cons_next {op : HostOp} {s t : State} (ops : List HostOp) (h : applyOp op s = .next t) :
    runOps (op :: ops) s = runOps ops t := by rw [runOps, h]

/-- A run that leaves a byte alone, one operation in. -/
theorem RunLeavesByte.tail {a : Nat} {op : HostOp} {ops : List HostOp} {s t : State} (h : RunLeavesByte a (op :: ops) s)
    (ht : applyOp op s = .next t) : RunLeavesByte a ops t := h.2 t ht

/-- A step that runs its instruction without a fault stores to that instruction's addresses. -/
theorem stepStores_run {s : State} (h : s.FetchReady) (hr : raises s.advance (decodeWord s.fetchWord) = none) :
    s.stepStores = (footprint s.advance (decodeWord s.fetchWord)).stored :=
  if_pos ⟨h.noFault, h.notWaiting, h.pcInRange, hr⟩

/-- A load that succeeds is the one operation but a step that writes memory. -/
theorem leavesByte_load_iff (a : Nat) (s : State) (image : List Byte) :
    LeavesByte a s (.load image) ↔ (s.load image).1 = .imageTooLarge := by
  unfold LeavesByte State.load
  split_ifs with h <;> simp [h]
  omega

end Sys2Proof.Machine
end

