-- ==== Sys2Proof/Laws/Step.lean ====
section
/-!
SUPPORT. Everything one step can do, said once (40_cycle.md R91).
-/

namespace Sys2Proof.Machine

/-- A step is inert, a poll, a fetch fault, or the decoded instruction on the advanced state. -/
theorem step_cases (s : State) :
    (s.fault ≠ none ∧ step s = .next s) ∨
    (s.fault = none ∧ s.waiting = true ∧ step s = .next (keyWaitPoll s)) ∨
    (s.fault = none ∧ s.waiting = false ∧ 4095 ≤ s.pc.toNat ∧ step s = .next (s.withFault .addressOutOfRange)) ∨
    (s.fault = none ∧ s.waiting = false ∧ s.pc.toNat ≤ 4094 ∧ step s = exec (decodeWord s.fetchWord) s.advance) := by
  unfold step fetchAndExecute
  cases hf : s.fault with
  | some k => exact .inl ⟨by simp, rfl⟩
  | none =>
    cases hw : s.waiting with
    | true => exact .inr (.inl ⟨rfl, rfl, rfl⟩)
    | false =>
      by_cases hp : s.pc.toNat ≤ 4094
      · exact .inr (.inr (.inr ⟨rfl, rfl, hp, by simp [s.fetchInRange_iff.mpr hp]⟩))
      · exact .inr (.inr (.inl ⟨rfl, rfl, by omega, by simp [State.fetchInRange_iff, hp, raise]⟩))

/-- A poll changes at most V and the latch's flag. -/
theorem keyWaitPoll_cases (s : State) : (s.lowestKey = none ∧ keyWaitPoll s = s) ∨
    ∃ k, s.lowestKey = some k ∧ keyWaitPoll s = (s.writeV s.waitReg (BitVec.ofNat 8 k.val)).endWait := by
  unfold keyWaitPoll
  cases s.lowestKey with
  | none => exact .inl ⟨rfl, rfl⟩
  | some k => exact .inr ⟨k, rfl, rfl⟩

end Sys2Proof.Machine
end

