-- ==== Sys2Proof/Tests/Slice0.lean ====
section
/-!
SUPPORT. Tests and witnesses. Every expected value comes from 95_test_vectors.md (its vector is named) or from the rule
named; none was copied from a run of the model.
-/

namespace Sys2Proof.Tests

open Sys2Proof Sys2Proof.Machine

/-! ## Helpers -/

/-- The next state, where there is one. -/
def nextOf : StepOutcome → Option State
  | .next t => some t
  | .fault _ => none
  | .refused _ => none

/-- The state after one step that runs the word `w`. -/
def after (w : Nat) (s : State) : Option State := nextOf (step (s.withFetchWord 16 w))

/-- `s` with some registers set. -/
def withV (s : State) : List (RegIx × Byte) → State
  | [] => s
  | (r, b) :: l => withV (s.writeV r b) l

/-- The reset state with some registers set. -/
def start (l : List (RegIx × Byte)) : State := withV State.reset l

/-- `s` with I and some bytes at I. -/
def withI (s : State) (i : Word) (bs : List Byte) : State := (s.setI i).storeBytes i.toNat bs

/-- `s` with one key down. -/
def press (s : State) (k : RegIx) : State := { s with key := s.key.set k true }

/-- `s` with a finite STACK_DEPTH. -/
def withDepth (s : State) (d : Nat) : State := { s with cfg := { s.cfg with stackDepth := some d } }

/-- `s` with the pixel (x, y) toggled. -/
def dot (s : State) (x : Fin 64) (y : Fin 32) : State := s.setFb (s.fb.toggle x y)

/-- The pixels of a list, as a list of Bools. -/
def lit (s : State) (l : List (Fin 64 × Fin 32)) : List Bool := l.map fun p => s.fb.pixel p.1 p.2

/-! ## WellFormed: the one check, on one word of each family (R76, V-04, V-17, V-43, V-64) -/

theorem test_wf_recognized_0 : WellFormed (.nop 0x00E0) = false ∧ WellFormed (.nop 0x00EE) = false := by decide
theorem test_wf_recognized_1to7 : WellFormed (.nop 0x1ABC) = false ∧ WellFormed (.nop 0x5120) = false ∧
    WellFormed (.nop 0x7FFF) = false := by decide
theorem test_wf_recognized_8 : WellFormed (.nop 0x8120) = false ∧ WellFormed (.nop 0x812E) = false := by decide
theorem test_wf_recognized_9toD : WellFormed (.nop 0x9120) = false ∧ WellFormed (.nop 0xD000) = false := by decide
theorem test_wf_recognized_EF : WellFormed (.nop 0xE09E) = false ∧ WellFormed (.nop 0xFF65) = false := by decide
theorem test_wf_unrecognized : WellFormed (.nop 0x5121) = true ∧ WellFormed (.nop 0x00E1) = true ∧
    WellFormed (.nop 0x8AB9) = true ∧ WellFormed (.nop 0xFFFF) = true := by decide

/-! ## Decode: words written out from the encodings of R71 and R74, every constructor -/

theorem test_decode_0to3 :
    decode [0b00000000, 0b11100000] = .ok (.cls, []) ∧ decode [0b00000000, 0b11101110] = .ok (.ret, []) ∧
    decode [0b00011010, 0b10111100] = .ok (.jp 0xABC, []) ∧ decode [0b00100101, 0b01101111] = .ok (.call 0x56F, []) ∧
    decode [0b00110100, 0b10100101] = .ok (.seImm 4 0xA5, []) := by decide
theorem test_decode_4to7 :
    decode [0b01001111, 0b00010010] = .ok (.sneImm 15 0x12, []) ∧ decode [0b01010011, 0b11000000] = .ok (.seReg 3 12, []) ∧
    decode [0b01101000, 0b01111110] = .ok (.ldImm 8 0x7E, []) ∧ decode [0b01110001, 0b10000000] = .ok (.addImm 1 0x80, []) := by
  decide
theorem test_decode_8_low :
    decode [0b10000001, 0b00100000] = .ok (.ldReg 1 2, []) ∧ decode [0b10000001, 0b00100001] = .ok (.orReg 1 2, []) ∧
    decode [0b10000001, 0b00100010] = .ok (.andReg 1 2, []) ∧ decode [0b10000001, 0b00100011] = .ok (.xorReg 1 2, []) := by
  decide
theorem test_decode_8_high :
    decode [0b10000001, 0b00100100] = .ok (.addReg 1 2, []) ∧ decode [0b10000001, 0b00100101] = .ok (.subReg 1 2, []) ∧
    decode [0b10000001, 0b00100110] = .ok (.shr 1 2, []) ∧ decode [0b10000001, 0b00100111] = .ok (.subn 1 2, []) ∧
    decode [0b10000001, 0b00101110] = .ok (.shl 1 2, []) := by decide
theorem test_decode_9toD :
    decode [0b10010111, 0b00010000] = .ok (.sneReg 7 1, []) ∧ decode [0b10100001, 0b00100011] = .ok (.ldI 0x123, []) ∧
    decode [0b10111111, 0b11110000] = .ok (.jpV0 0xFF0, []) ∧ decode [0b11000101, 0b00001111] = .ok (.rnd 5 0x0F, []) ∧
    decode [0b11010001, 0b00101101] = .ok (.drw 1 2 13, []) := by decide
theorem test_decode_E :
    decode [0b11100110, 0b10011110] = .ok (.skp 6, []) ∧ decode [0b11100110, 0b10100001] = .ok (.sknp 6, []) := by decide
theorem test_decode_F_low :
    decode [0b11110010, 0b00000111] = .ok (.ldVxDT 2, []) ∧ decode [0b11110011, 0b00001010] = .ok (.ldVxK 3, []) ∧
    decode [0b11110100, 0b00010101] = .ok (.ldDTVx 4, []) ∧ decode [0b11110101, 0b00011000] = .ok (.ldSTVx 5, []) ∧
    decode [0b11110110, 0b00011110] = .ok (.addI 6, []) := by decide
theorem test_decode_F_high :
    decode [0b11110111, 0b00101001] = .ok (.ldF 7, []) ∧ decode [0b11111000, 0b00110011] = .ok (.ldB 8, []) ∧
    decode [0b11111001, 0b01010101] = .ok (.stRegs 9, []) ∧ decode [0b11111010, 0b01100101] = .ok (.ldRegs 10, []) := by decide
/-- Unrecognized words of every family that has some (V-04, V-17, V-40, V-43, V-64, V-87). -/
theorem test_decode_fallback : ∀ w ∈ [0x0000, 0x00E1, 0x00EF, 0x0123, 0x0FFF, 0x5121, 0x8128, 0x812D, 0x812F, 0x9121, 0xE09F,
    0xF000, 0xF0FF, 0xF130, 0xFFFF], decodeTableWord 16 w = some (.nop (BitVec.ofNat 16 w)) := by decide
theorem test_decode_truncated : decode [0x12] = .error .truncated ∧ decode [] = .error .truncated := by decide
/-- The table numbers the word as one 16-bit number; nine bits of it leave the rest 0. -/
theorem test_decodeTableWord : decodeTableWord 16 0x6A55 = some (.ldImm 10 0x55) ∧ decodeTableWord 8 0xFFE0 = some .cls := by
  decide

/-! ## Families 0x0 to 0x7 -/

/-- V-01. -/
theorem test_cls : (after 0x00E0 (dot (dot (start [(15, 9)]) 0 0) 63 31)).map (fun t => (lit t [(0, 0), (63, 31)], t.readV 15, t.pc)) =
    some ([false, false], 9, 0x202) := by decide +kernel
/-- V-02. -/
theorem test_ret : (after 0x00EE { State.reset with pc := 0x300, stack := [0x404, 0x206] }).map (fun t => (t.pc, t.stack)) =
    some (0x404, [0x206]) := by decide
/-- V-03. -/
theorem test_ret_empty : (after 0x00EE State.reset).map (fun t => (t.pc, t.stack, t.fault)) =
    some (0x202, [], some .stackUnderflow) := by decide
/-- V-06. -/
theorem test_jp : (after 0x1FFF State.reset).map (·.pc) = some 0xFFF := by decide
/-- V-07. -/
theorem test_call : (after 0x2FFE State.reset).map (fun t => (t.pc, t.stack)) = some (0xFFE, [0x202]) := by decide
/-- V-08. -/
theorem test_call_full : (after 0x2300 (withDepth { State.reset with stack := List.replicate 16 0x400 } 16)).map
    (fun t => (t.pc, t.stack.length, t.fault)) = some (0x202, 16, some .stackOverflow) := by decide
/-- V-10, V-12. -/
theorem test_seImm : (after 0x3000 State.reset).map (·.pc) = some 0x204 ∧
    (after 0x3000 (State.reset.setPc 0xFFC)).map (·.pc) = some 0x1000 := by decide
/-- V-11. -/
theorem test_seImm_not : (after 0x3A01 (start [(10, 0x10)])).map (·.pc) = some 0x202 := by decide
/-- V-13, V-14. -/
theorem test_sneImm : (after 0x4000 State.reset).map (·.pc) = some 0x202 ∧
    (after 0x4FFF (start [(15, 0xFE)])).map (·.pc) = some 0x204 := by decide
/-- V-15, V-16. -/
theorem test_seReg : (after 0x5120 (start [(1, 3), (2, 4)])).map (·.pc) = some 0x202 ∧
    (after 0x5550 State.reset).map (·.pc) = some 0x204 := by decide
/-- V-18. -/
theorem test_ldImm : (after 0x6FAA State.reset).map (·.readV 15) = some 0xAA := by decide
/-- V-19, V-20. -/
theorem test_addImm : (after 0x70FF (start [(0, 1), (15, 7)])).map (fun t => (t.readV 0, t.readV 15)) = some (0, 7) ∧
    (after 0x7F01 (start [(15, 0xFF)])).map (·.readV 15) = some 0 := by decide
/-- V-C5. -/
theorem test_nop : (after 0xFFFF State.reset).map (fun t => (t.pc, t.v)) = some (0x202, State.reset.v) := by decide

/-! ## Family 0x8 -/

/-- V-21. -/
theorem test_ldReg : (after 0x8120 (start [(2, 0x99), (15, 1)])).map (fun t => (t.readV 1, t.readV 15)) = some (0x99, 1) := by
  decide
/-- V-22. -/
theorem test_orReg : (after 0x8121 (start [(1, 0x0F), (2, 0xF0), (15, 0x55)])).map (fun t => (t.readV 1, t.readV 15)) =
    some (0xFF, 0x55) := by decide
/-- V-23. -/
theorem test_andReg : (after 0x8122 (start [(1, 0x3C), (2, 0x0F)])).map (·.readV 1) = some 0x0C := by decide
/-- V-24. -/
theorem test_xorReg : (after 0x8113 (start [(1, 0xA5)])).map (·.readV 1) = some 0 := by decide
/-- L1-7. -/
theorem test_addReg : (after 0x8124 (start [(1, 250), (2, 10)])).map (fun t => (t.readV 1, t.readV 15)) = some (4, 1) ∧
    (after 0x8124 (start [(1, 10), (2, 10)])).map (fun t => (t.readV 1, t.readV 15)) = some (20, 0) := by decide
/-- V-27, V-28. -/
theorem test_addReg_flag : (after 0x8F14 (start [(15, 0xFF), (1, 1)])).map (·.readV 15) = some 1 ∧
    (after 0x81F4 (start [(1, 0x10), (15, 5)])).map (fun t => (t.readV 1, t.readV 15)) = some (0x15, 0) := by decide
/-- L1-8. -/
theorem test_subReg : (after 0x8125 (start [(1, 5), (2, 10)])).map (fun t => (t.readV 1, t.readV 15)) = some (251, 0) ∧
    (after 0x8125 (start [(1, 10), (2, 5)])).map (fun t => (t.readV 1, t.readV 15)) = some (5, 1) := by decide
/-- V-29, V-30. -/
theorem test_subReg_equal : (after 0x8125 (start [(1, 7), (2, 7)])).map (fun t => (t.readV 1, t.readV 15)) = some (0, 1) ∧
    (after 0x8F15 (start [(15, 3), (1, 5)])).map (·.readV 15) = some 0 := by decide
/-- V-32, V-33. -/
theorem test_shr : (after 0x8126 (start [(1, 0xFF), (2, 4)])).map (fun t => (t.readV 1, t.readV 15)) = some (2, 0) ∧
    (after 0x8126 (start [(2, 1)])).map (fun t => (t.readV 1, t.readV 15)) = some (0, 1) := by decide
/-- V-34. -/
theorem test_shr_flag : (after 0x8F26 (start [(2, 2)])).map (·.readV 15) = some 0 := by decide
/-- V-35, V-36. -/
theorem test_subn : (after 0x8127 (start [(1, 7), (2, 7)])).map (fun t => (t.readV 1, t.readV 15)) = some (0, 1) ∧
    (after 0x8127 (start [(1, 1)])).map (fun t => (t.readV 1, t.readV 15)) = some (0xFF, 0) := by decide
/-- V-37, V-38. -/
theorem test_shl : (after 0x812E (start [(2, 0x80)])).map (fun t => (t.readV 1, t.readV 15)) = some (0, 1) ∧
    (after 0x812E (start [(2, 0x7F)])).map (fun t => (t.readV 1, t.readV 15)) = some (0xFE, 0) := by decide
/-- V-39. -/
theorem test_shl_flag : (after 0x8FFE (start [(15, 0xC0)])).map (·.readV 15) = some 1 := by decide

/-! ## Families 0x9 to 0xD -/

/-- V-41, and R170 with unequal registers. -/
theorem test_sneReg : (after 0x9120 (start [(1, 4), (2, 4)])).map (·.pc) = some 0x202 ∧
    (after 0x9120 (start [(1, 1), (2, 2)])).map (·.pc) = some 0x204 := by decide
/-- V-44. -/
theorem test_ldI : (after 0xAFFF State.reset).map (·.I) = some 0x0FFF := by decide
/-- V-45, V-46. -/
theorem test_jpV0 : (after 0xB200 State.reset).map (·.pc) = some 0x200 ∧
    (after 0xBFFF (start [(0, 0xFF)])).map (·.pc) = some 0x10FE := by decide
/-- V-47: with NN = 0 the result is 0 whatever is drawn. -/
theorem test_rnd : ∃ t, exec (.rnd 5 0) (start [(5, 0xEE)]) = .next t ∧ t.readV 5 = 0 :=
  ⟨_, rfl, by simp [State.readV, State.countDraw, State.writeV]⟩
/-- L1-5, L1-6: both wraparounds, with pixels beside the sprite that stay off. -/
theorem test_drw_wrap :
    (after 0xD011 (withI (start [(0, 60)]) 0x300 [0xFF])).map (fun t =>
      (lit t [(60, 0), (63, 0), (0, 0), (3, 0), (59, 0), (4, 0), (60, 1), (0, 31)], t.readV 15)) =
      some ([true, true, true, true, false, false, false, false], 0) ∧
    (after 0xD014 (withI (start [(1, 30)]) 0x300 [0x80, 0x80, 0x80, 0x80])).map (fun t =>
      (lit t [(0, 30), (0, 31), (0, 0), (0, 1), (0, 29), (0, 2), (1, 30), (63, 30)], t.readV 15)) =
      some ([true, true, true, true, false, false, false, false], 0) := by decide +kernel
/-- V-56, V-52: a collision, and the range check before any write. -/
theorem test_drw_collision :
    (after 0xD011 (dot (withI State.reset 0x300 [0xC0]) 0 0)).map (fun t => (lit t [(0, 0), (1, 0), (2, 0)], t.readV 15)) =
      some ([false, true, false], 1) ∧
    (after 0xD012 (State.reset.setI 0xFFF)).map (fun t => (lit t [(0, 0)], t.fault)) =
      some ([false], some .dataAddressOutOfRange) := by
  decide +kernel

/-! ## Families 0xE and 0xF -/

/-- V-59, V-60. -/
theorem test_skp : (after 0xE09E (press State.reset 0)).map (·.pc) = some 0x204 ∧
    (after 0xE09E State.reset).map (·.pc) = some 0x202 := by decide
/-- V-62. -/
theorem test_skp_index : (after 0xE09E (start [(0, 0x10)])).map (fun t => (t.pc, t.fault)) =
    some (0x202, some .keyIndexOutOfRange) := by decide
/-- V-61, and R201 with the key up. -/
theorem test_sknp : (after 0xE0A1 (press (start [(0, 15)]) 15)).map (·.pc) = some 0x202 ∧
    (after 0xE0A1 (start [(0, 15)])).map (·.pc) = some 0x204 := by decide
/-- V-63. -/
theorem test_sknp_index : (after 0xE0A1 (start [(0, 0xFF)])).map (fun t => (t.pc, t.fault)) =
    some (0x202, some .keyIndexOutOfRange) := by decide
/-- R203, on a DT that is not 0. -/
theorem test_ldVxDT : (after 0xF707 (State.reset.setDt 0x2A)).map (·.readV 7) = some 0x2A := by decide
/-- V-71, step 1: a key that is down already is not taken in this step. -/
theorem test_ldVxK : (after 0xF30A (press State.reset 5)).map (fun t => (t.waiting, t.waitReg, t.readV 3, t.pc)) =
    some (true, 3, 0, 0x202) := by decide
/-- V-72: the poll takes the lowest key. -/
theorem test_poll : (nextOf (step (press (press (State.reset.beginWait 15) 9) 7))).map
    (fun t => (t.readV 15, t.waiting, t.pc)) = some (7, false, 0x200) := by decide
/-- R204. -/
theorem test_ldDTVx : (after 0xFA15 (start [(10, 3)])).map (fun t => (t.dt, t.st)) = some (3, 0) := by decide
/-- R205. -/
theorem test_ldSTVx : (after 0xF118 (start [(1, 5)])).map (fun t => (t.dt, t.st)) = some (0, 5) := by decide
/-- V-69, V-70. -/
theorem test_addI : (after 0xF01E ((start [(0, 1), (15, 7)]).setI 0xFFFF)).map (fun t => (t.I, t.readV 15)) = some (0, 7) ∧
    (after 0xFF1E ((start [(15, 0x20)]).setI 0x100)).map (·.I) = some 0x120 := by decide
/-- V-75, L1-12. -/
theorem test_ldF : (after 0xF029 (start [(0, 0x1F)])).map (·.I) = some 0x9B ∧
    (after 0xF429 (start [(4, 0x0B)])).map (·.I) = some 0x87 := by decide
/-- V-79. -/
theorem test_ldB : (after 0xF033 ((start [(0, 255)]).setI 0xFFD)).map (fun t => (t.readBytes 0xFFD 3, t.I)) =
    some ([2, 5, 5], 0xFFD) := by decide
/-- V-80. -/
theorem test_ldB_range : (after 0xF033 ((start [(0, 1)]).setI 0xFFE)).map (fun t => (t.readBytes 0xFFE 2, t.fault)) =
    some ([0, 0], some .dataAddressOutOfRange) := by decide
/-- V-81. -/
theorem test_stRegs : (after 0xF155 ((start [(0, 0xAB), (1, 0xCD), (2, 0xEF)]).setI 0x300)).map
    (fun t => (t.readBytes 0x300 3, t.I)) = some ([0xAB, 0xCD, 0], 0x300) := by decide
/-- V-83. -/
theorem test_stRegs_range : (after 0xFF55 ((start [(0, 7)]).setI 0xFF1)).map (fun t => (t.readByte 0xFF1, t.fault)) =
    some (0, some .dataAddressOutOfRange) := by decide
/-- V-84. -/
theorem test_ldRegs : (after 0xF165 (withI (start [(2, 9)]) 0xFFE [0x11, 0x22])).map
    (fun t => (t.readV 0, t.readV 1, t.readV 2, t.I)) = some (0x11, 0x22, 9, 0xFFE) := by decide
/-- V-85. -/
theorem test_ldRegs_range : (after 0xF265 (withI (start [(0, 1)]) 0xFFE [0x11, 0x22])).map (fun t => (t.readV 0, t.fault)) =
    some (1, some .dataAddressOutOfRange) := by decide

/-! ## The step shell and the host -/

/-- V-C1: an odd pc. -/
theorem test_fetch_odd : (nextOf (step ((State.reset.setPc 0x201).storeBytes 0x201 [0x60, 0x11]))).map
    (fun t => (t.readV 0, t.pc)) = some (0x11, 0x203) := by decide
/-- L1-11: pc = 4094 fetches, pc = 4095 faults and changes nothing else. -/
theorem test_fetch_boundary :
    (nextOf (step ((State.reset.setPc 0xFFE).storeBytes 0xFFE [0x6A, 0x55]))).map (fun t => (t.readV 10, t.pc)) =
      some (0x55, 0x1000) ∧
    nextOf (step (State.reset.setPc 0xFFF)) = some ((State.reset.setPc 0xFFF).withFault .addressOutOfRange) := by
  decide +kernel
/-- V-C3. -/
theorem test_faulted : nextOf (step (State.reset.withFault .stackUnderflow)) = some (State.reset.withFault .stackUnderflow) := by
  decide +kernel
/-- L1-1: the load, and the default font's first glyph and last byte. -/
theorem test_load : ((State.reset.setPc 0x777).load [0x12, 0x00]).1 = .ok ∧
    ((State.reset.setPc 0x777).load [0x12, 0x00]).2.pc = 0x200 ∧
    ((State.reset.setPc 0x777).load [0x12, 0x00]).2.readBytes 0x200 3 = [0x12, 0, 0] ∧
    State.reset.readBytes 0x4F 6 = [0, 0xF0, 0x90, 0x90, 0x90, 0xF0] ∧ State.reset.readBytes 0x9F 2 = [0x80, 0] := by decide
/-- V-89. -/
theorem test_tick : ((State.reset.setDt 0xFF).setSt 1).tickTimers.dt = 0xFE ∧
    ((State.reset.setDt 0xFF).setSt 1).tickTimers.st = 0 ∧
    ((State.reset.setDt 0xFF).setSt 1).tickTimers.soundActive = false := by decide
/-- The program P7, steps 3 to 5: the latch, an inert step, a tick in Faulted, and a load that clears it. -/
theorem test_fault_schedule : (nextOf (runOps [.step, .step, .tickTimers] ((State.reset.setSt 5).withFetchWord 16 0x00EE))).map
    (fun t => (t.pc, t.st, t.fault, (t.load []).2.fault)) = some (0x202, 4, some .stackUnderflow, none) := by decide

/-- P5, line 6: the host presses the keys 7 and 9; the others and the rest of the state stay. -/
theorem test_writeKeys : ((press (press State.reset 7) 9).key[(7 : RegIx)], (press State.reset 7).key[(9 : RegIx)]) = (true, false) ∧
    (State.reset.writeKeys (press (press State.reset 7) 9).key).key[(9 : RegIx)] = true ∧
    (State.reset.writeKeys (press State.reset 7).key).pc = 0x200 := by decide
/-- R210, R242: a step that runs F155 at I = 0x300 stores to 0x300 and 0x301 only; at I = 0xFFF it faults and stores to none. -/
theorem test_stepStores : ((State.reset.setI 0x300).withFetchWord 16 0xF155).stepStores = [0x300, 0x301] ∧
    ((State.reset.setI 0xFFF).withFetchWord 16 0xF155).stepStores = [] := by decide

/-! ## Witnesses: every hypothesis of every statement is met, each clause at a boundary -/

theorem witness_LoadResetsEveryPieceOfState : (List.replicate 3584 (7 : Byte)).length ≤ 3584 :=
  Nat.le_of_eq List.length_replicate
theorem witness_LoadRefusesTooLargeImages : 3584 < (List.replicate 3585 (7 : Byte)).length := by
  rw [List.length_replicate]; decide
theorem witness_StepFetchesAndRunsTheDecodedInstruction :
    (State.reset.setPc 4095).fault = none ∧ (State.reset.setPc 4095).waiting = false ∧
    4095 ≤ (State.reset.setPc 4095).pc.toNat ∧
    (State.reset.setPc 4094).fault = none ∧ (State.reset.setPc 4094).waiting = false ∧
    (State.reset.setPc 4094).pc.toNat ≤ 4094 ∧
    decode [((State.reset.setPc 4094).storeBytes 4094 [0x6A, 0x55]).readByte 4094,
      ((State.reset.setPc 4094).storeBytes 4094 [0x6A, 0x55]).readByte 4095] = .ok (.ldImm 10 0x55, []) := by decide
theorem witness_LatchedFaultMakesTheStepInert :
    (State.reset.withFault .stackUnderflow).fault = some .stackUnderflow := by decide
theorem witness_KeyWaitPollTakesTheLowestPressedKey :
    (press (State.reset.beginWait 3) 15).fault = none ∧ (press (State.reset.beginWait 3) 15).waiting = true ∧
    (press (State.reset.beginWait 3) 15).key[(15 : RegIx)] = true ∧
    (∀ j : RegIx, j < 15 → (press (State.reset.beginWait 3) 15).key[j] = false) ∧
    (press (State.reset.beginWait 3) 0).key[(0 : RegIx)] = true ∧
    (∀ k : RegIx, (State.reset.beginWait 3).key[k] = false) ∧ (State.reset.beginWait 3).waiting = true := by decide
theorem witness_MacroStateTransitions :
    (State.reset.withFault .stackOverflow).macroState = .faulted .stackOverflow ∧
    (press (State.reset.beginWait 3) 15).macroState = .awaitingKey ∧
    (press (State.reset.beginWait 3) 15).key[(15 : RegIx)] = true ∧
    (State.reset.beginWait 3).macroState = .awaitingKey ∧ (∀ k : RegIx, (State.reset.beginWait 3).key[k] = false) ∧
    (State.reset.setPc 4095).macroState = .running ∧ 4095 ≤ (State.reset.setPc 4095).pc.toNat ∧
    (State.reset.setPc 4094).macroState = .running ∧ (State.reset.setPc 4094).pc.toNat ≤ 4094 ∧
    (State.reset.load [0x12]).1 = .ok := by decide
theorem witness_MacroStateTransitions_refusedLoad : (State.reset.load (List.replicate 3585 0)).1 = .imageTooLarge := by
  rw [State.load, if_neg (by rw [List.length_replicate]; decide)]
theorem witness_DecodesAs : ∀ row ∈ opRows, row.pattern &&& row.mask = row.pattern := by decide
theorem witness_ReturnPopsTheStack : ({ State.reset with stack := [0x1000] } : State).stack = 0x1000 :: [] ∧
    State.reset.stack = [] ∧ State.reset.cfg.stackDepth ≠ some State.reset.stack.length := by decide
theorem witness_CallPushesAndJumps :
    State.reset.cfg.stackDepth ≠ some State.reset.stack.length ∧
    (withDepth { State.reset with stack := List.replicate 15 0x400 } 16).cfg.stackDepth ≠ some 15 ∧
    (withDepth { State.reset with stack := List.replicate 16 0x400 } 16).cfg.stackDepth =
      some (withDepth { State.reset with stack := List.replicate 16 0x400 } 16).stack.length := by decide
theorem witness_FlagInstructions : (14 : RegIx) ≠ 15 := by decide
theorem witness_DrawXorsTheSpriteAndSetsCollision :
    ((0 : Nibble) = 0 ∧ (State.reset.setI 0xFFFF).I.toNat = 65535) ∧
    (State.reset.setI 4095).I.toNat + (1 : Nibble).toNat - 1 ≤ 4095 ∧
    ((2 : Nibble) ≠ 0 ∧ (State.reset.setI 4095).I.toNat + (2 : Nibble).toNat - 1 > 4095) := by decide
theorem witness_DrawingTwiceRestoresTheFramebuffer : ∃ t u,
    exec (.drw 0 1 1) (withI State.reset 0x300 [0x80]) = .next t ∧
    t.readV 0 = (withI State.reset 0x300 [0x80]).readV 0 ∧ t.readV 1 = (withI State.reset 0x300 [0x80]).readV 1 ∧
    exec (.drw 0 1 1) t = .next u ∧ (withI State.reset 0x300 [0x80]).I.toNat + (1 : Nibble).toNat - 1 ≤ 4095 :=
  ⟨_, _, rfl, by decide, by decide, rfl, by decide⟩
theorem witness_KeySkips : ((start [(0, 15)]).readV 0).toNat = (15 : RegIx).val ∧ ((start [(0, 0)]).readV 0).toNat = (0 : RegIx).val ∧
    ((start [(0, 16)]).readV 0).toNat > 15 := by decide
theorem witness_StoreDecimalDigits : (State.reset.setI 4093).I.toNat + 2 ≤ 4095 ∧ (State.reset.setI 4094).I.toNat + 2 > 4095 := by
  decide
theorem witness_StoreRegisters_LoadRegisters :
    (State.reset.setI 4080).I.toNat + (15 : RegIx).val ≤ 4095 ∧ (15 : RegIx) ≤ 15 ∧
    (State.reset.setI 4095).I.toNat + (0 : RegIx).val ≤ 4095 ∧ (0 : RegIx) < 15 ∧
    (State.reset.setI 4081).I.toNat + (15 : RegIx).val > 4095 := by decide
theorem witness_UnrecognizedWordsAreNoOps :
    recognized 0x5121 = false ∧ State.reset.FetchReady ∧ recognized State.reset.fetchWord = false :=
  ⟨by decide, ⟨rfl, rfl, by decide⟩, by decide⟩
theorem witness_FaultsArePrecise :
    raises State.reset .ret = some .stackUnderflow ∧
    raises (withDepth State.reset 0) (.call 0x300) = some .stackOverflow ∧
    raises (State.reset.setI 4095) (.drw 0 0 2) = some .dataAddressOutOfRange ∧
    raises (start [(3, 16)]) (.skp 3) = some .keyIndexOutOfRange ∧
    raises (start [(3, 16)]) (.sknp 3) = some .keyIndexOutOfRange ∧
    raises (State.reset.setI 4094) (.ldB 0) = some .dataAddressOutOfRange ∧
    raises (State.reset.setI 4081) (.stRegs 15) = some .dataAddressOutOfRange ∧
    raises (State.reset.setI 4081) (.ldRegs 15) = some .dataAddressOutOfRange ∧
    raises State.reset (.call 0x300) = none ∧ raises State.reset .cls = none := by decide
theorem witness_OnlyTheNamedInstructionsWriteEachState : step (State.reset.withFetchWord 16 0x6A55) =
    .next ((State.reset.withFetchWord 16 0x6A55).advance.writeV 10 0x55) := rfl
theorem witness_OnlyTheNamedInstructionsWriteEachState_latches :
    (∃ t, step (State.reset.withFetchWord 16 0xF30A) = .next t ∧ t.waitReg ≠ State.reset.waitReg) ∧
    (∃ t, step (State.reset.withFetchWord 16 0xC500) = .next t ∧ t.draws ≠ State.reset.draws ∧ t.pc ≠ State.reset.pc) ∧
    (∃ t, step (State.reset.setPc 4095) = .next t ∧ t.fault ≠ (State.reset.setPc 4095).fault) ∧
    (∃ t, step (State.reset.withFetchWord 16 0x00EE) = .next t ∧ t.fault ≠ State.reset.fault) :=
  ⟨⟨_, rfl, by decide⟩, ⟨_, rfl, by decide, by decide⟩, ⟨_, rfl, by decide⟩, ⟨_, rfl, by decide⟩⟩
theorem witness_StepKeepsTheInvariant : State.reset.Inv ∧ step State.reset = .next State.reset.advance :=
  ⟨⟨⟨List.Pairwise.nil, fun _ h => absurd h List.not_mem_nil⟩, by decide, fun _ h => absurd h List.not_mem_nil,
    fun _ h => (nomatch h), fun _ => rfl⟩, rfl⟩
theorem witness_EveryHostScheduleKeepsTheInvariant : State.reset.Inv := witness_StepKeepsTheInvariant.1
theorem witness_NoInstructionReadsTheSoundTimer :
    (∃ t, exec .cls State.reset = .next t) ∧ (∀ x, Instr.cls ≠ .ldSTVx x) ∧
    (∃ t, exec (.ldSTVx 3) State.reset = .next t) := ⟨⟨_, rfl⟩, nofun, ⟨_, rfl⟩⟩
theorem witness_OnlyRandomDependsOnTheDraws :
    (∀ x nn, Instr.addReg 1 2 ≠ .rnd x nn) ∧ ∃ t, exec (.addReg 1 2) State.reset = .next t := ⟨nofun, ⟨_, rfl⟩⟩
theorem witness_StoresAreSeenByTheNextFetch : (4094 : Word).toNat ≤ 4094 ∧
    (State.reset.setI 4093).I.toNat + 2 ≤ 4095 ∧ (State.reset.setI 4080).I.toNat + (15 : RegIx).val ≤ 4095 := by decide
/-- A later step, a tick and a keypad write leave the two bytes alone: the step stores at 0x302 and 0x303 itself. -/
theorem witness_StoresAreSeenByTheNextFetch_run : ∀ a ∈ [0x300, 0x301],
    RunLeavesByte a [.step, .tickTimers, .writeKeys State.reset.key] ((State.reset.setI 0x302).withFetchWord 16 0xF155) := by
  intro a ha
  refine ⟨?_, fun _ _ => ⟨trivial, fun _ _ => ⟨trivial, fun _ _ => trivial⟩⟩⟩
  revert a
  simp only [LeavesByte]
  decide
theorem witness_DecoderFollowsTheOpcodeTable : opTable.length = 34 ∧ ∃ f, ((⟨0xF00F, 0x8004⟩ : OpRow), f) ∈ opTable ∧
    f 0x8124 = .addReg 1 2 := ⟨rfl, _, List.mem_of_getElem? (i := 13) rfl, by decide⟩
theorem witness_FinalStatesStay : (State.reset.withFetchWord 16 0x1200).isFinal = true ∧
    (State.reset.withFault .stackOverflow).isFinal = true ∧ (State.reset.beginWait 0).isFinal = false := by decide
theorem witness_HostAccessors : (31 : Fin 32).val * 64 + (63 : Fin 64).val < 2048 ∧
    faultCode (some .keyIndexOutOfRange) = faultCode (some .keyIndexOutOfRange) := by decide
theorem witness_DecodeOfEncodeIsTheInstruction :
    WellFormed (.nop 0xFFFF) = true ∧ WellFormed (.drw 15 15 15) = true := by decide
theorem witness_EqualMemoriesAreEqualData :
    Memory.wf defaultFont [(0x300, 1)] ∧ ∀ a, Memory.read defaultFont [(0x300, 1)] a = Memory.read defaultFont [(0x300, 1)] a :=
  ⟨⟨List.pairwise_singleton _ _, by decide⟩, fun _ => rfl⟩

end Sys2Proof.Tests
end

section
/-!
PROOFS, family 20_memory.md. Which bytes each level of the machine leaves alone: an instruction, a step, one operation of the
host, a run of them. From the last follows O40: a stored byte is fetched until it is written again (R64).
-/

namespace Sys2Proof.Machine

/-! ## The two instructions that store -/

/-- `FX33` with its range check in numbers (R209, R59). -/
theorem exec_ldB (s : State) (x : RegIx) :
    exec (.ldB x) s = .next (if s.I.toNat + 2 ≤ 4095 then s.storeBytes s.I.toNat (decimalDigits (s.readV x))
      else s.withFault .dataAddressOutOfRange) := by
  have hrange : s.dataInRange 3 = true ↔ s.I.toNat + 2 ≤ 4095 := by rw [s.dataInRange_iff]; omega
  simp only [exec, execLdB, raise, hrange]
  split <;> rfl

/-- `FX55` with its range check in numbers (R210, R59). -/
theorem exec_stRegs (s : State) (x : RegIx) :
    exec (.stRegs x) s = .next (if s.I.toNat + x.val ≤ 4095 then s.storeBytes s.I.toNat (s.firstRegs x)
      else s.withFault .dataAddressOutOfRange) := by
  have hrange : s.dataInRange (regCount x) = true ↔ s.I.toNat + x.val ≤ 4095 := by
    rw [s.dataInRange_iff, regCount]; omega
  simp only [exec, execStRegs, raise, hrange]
  split <;> rfl

namespace State

variable (s : State)

@[simp] theorem skipIf_mem (c : Bool) : (s.skipIf c).mem = s.mem := by rw [skipIf_eq, setPc_mem]
@[simp] theorem skipIf_cfg (c : Bool) : (s.skipIf c).cfg = s.cfg := by rw [skipIf_eq, setPc_cfg]

/-- A store at I leaves every byte but those at its own data addresses. -/
theorem readByte_storeBytes_I {bs : List Byte} {a : Nat} (h : a ∉ s.dataAddrs bs.length) :
    (s.storeBytes s.I.toNat bs).readByte a = s.readByte a := by
  rw [mem_dataAddrs] at h
  exact s.readByte_storeBytes_outside _ _ _ (by omega)

end State

/-! ## What each level leaves in memory -/

/-- Every instruction but FX33 and FX55 answers a next state with the memory and the parameters it found (R51). -/
theorem exec_keeps_memory {i : Instr} (s : State) (hB : ∀ x, i ≠ .ldB x) (hS : ∀ x, i ≠ .stRegs x) :
    ∃ t, exec i s = .next t ∧ t.mem = s.mem ∧ t.cfg = s.cfg := by
  cases i with
  | ldB x => exact absurd rfl (hB x)
  | stRegs x => exact absurd rfl (hS x)
  | seImm | sneImm | seReg | sneReg => exact ⟨_, rfl, s.skipIf_mem _, s.skipIf_cfg _⟩
  | skp | sknp =>
    simp only [exec, execSkp, execSknp, keySkip]
    split
    · exact ⟨_, rfl, s.skipIf_mem _, s.skipIf_cfg _⟩
    · exact ⟨_, rfl, rfl, rfl⟩
  | ret | call | drw | ldRegs =>
    simp only [exec, execRet, execCall, execDrw, execLdRegs]
    split <;> exact ⟨_, rfl, rfl, rfl⟩
  | _ => exact ⟨_, rfl, rfl, rfl⟩

/-- An instruction answers a next state that reads as before at every address it does not store to; one that faults stores
nowhere (R98, R242). -/
theorem exec_readByte (i : Instr) (s : State) :
    ∃ t, exec i s = .next t ∧
      ∀ a, (raises s i = none → a ∉ (footprint s i).stored) → t.readByte a = s.readByte a := by
  cases i with
  | ldB x =>
    refine ⟨_, exec_ldB s x, fun a ha => ?_⟩
    split_ifs with h
    · exact s.readByte_storeBytes_I (ha (if_neg (by omega)))
    · rfl
  | stRegs x =>
    refine ⟨_, exec_stRegs s x, fun a ha => ?_⟩
    split_ifs with h
    · refine s.readByte_storeBytes_I ?_
      rw [s.length_firstRegs]
      exact ha (if_neg (by omega))
    · rfl
  | _ =>
    exact (exec_keeps_memory s (by nofun) (by nofun)).imp
      fun _ ⟨ht, hmem, hcfg⟩ => ⟨ht, fun a _ => State.readByte_congr hmem hcfg a⟩

/-- A step answers a next state that reads as before at every address it does not store to. -/
theorem step_readByte (s : State) :
    ∃ t, step s = .next t ∧ ∀ a, a ∉ s.stepStores → t.readByte a = s.readByte a := by
  rcases step_cases s with ⟨-, h⟩ | ⟨-, -, h⟩ | ⟨-, -, -, h⟩ | ⟨hf, hw, hpc, h⟩
  · exact ⟨s, h, fun _ _ => rfl⟩
  · refine ⟨_, h, fun a _ => ?_⟩
    rcases keyWaitPoll_cases s with ⟨-, hpoll⟩ | ⟨k, -, hpoll⟩
    · rw [hpoll]
    · rw [hpoll]; rfl
  · exact ⟨_, h, fun _ _ => rfl⟩
  · obtain ⟨t, ht, hkeep⟩ := exec_readByte (decodeWord s.fetchWord) s.advance
    refine ⟨t, h.trans ht, fun a ha => hkeep a fun hr => ?_⟩
    rwa [stepStores_run ⟨hf, hw, hpc⟩ hr] at ha

/-- An operation of the host answers a next state that reads as before at every address it leaves alone. -/
theorem applyOp_readByte (op : HostOp) (s : State) :
    ∃ t, applyOp op s = .next t ∧ ∀ a, LeavesByte a s op → t.readByte a = s.readByte a := by
  cases op with
  | load image =>
    refine ⟨_, rfl, fun a (ha : maxImage < image.length) => ?_⟩
    rw [State.load, if_neg (by omega)]
  | step => exact step_readByte s
  | tickTimers => exact ⟨_, rfl, fun _ _ => rfl⟩
  | writeKeys keys => exact ⟨_, rfl, fun _ _ => rfl⟩

/-- A run of the host's operations answers a next state that reads as before at every address it leaves alone. -/
theorem runOps_readByte (ops : List HostOp) (s : State) :
    ∃ u, runOps ops s = .next u ∧ ∀ a, RunLeavesByte a ops s → u.readByte a = s.readByte a := by
  induction ops generalizing s with
  | nil => exact ⟨s, rfl, fun _ _ => rfl⟩
  | cons op ops ih =>
    obtain ⟨t, ht, hop⟩ := applyOp_readByte op s
    obtain ⟨u, hu, hrun⟩ := ih t
    refine ⟨u, (runOps_cons_next ops ht).trans hu, fun a ha => ?_⟩
    rw [hrun a (ha.tail ht), hop a ha.1]

/-! ## The word a fetch reads -/

/-- The fetch at p after a store and a run that leaves the bytes at p and p + 1 alone (R58, R64). -/
theorem fetchWord_of_run_after_store (s : State) (base : Nat) (bs : List Byte) (p : Word) (ops : List HostOp)
    (hhi : RunLeavesByte p.toNat ops (s.storeBytes base bs))
    (hlo : RunLeavesByte (p.toNat + 1) ops (s.storeBytes base bs)) :
    ∃ u, runOps ops (s.storeBytes base bs) = .next u ∧
      ({ u with pc := p }).fetchWord.toNat =
        256 * (s.byteAfterStore base bs p.toNat).toNat + (s.byteAfterStore base bs (p.toNat + 1)).toNat := by
  obtain ⟨u, hu, hkeep⟩ := runOps_readByte ops (s.storeBytes base bs)
  have hbyte : ∀ a, RunLeavesByte a ops (s.storeBytes base bs) → u.readByte a = s.byteAfterStore base bs a :=
    fun a ha => (hkeep a ha).trans (s.readByte_storeBytes base a bs)
  refine ⟨u, hu, ?_⟩
  rw [← hbyte _ hhi, ← hbyte _ hlo]
  exact wordOfBytes_toNat _ _

/-- Settles O40: FX33 and FX55 store their bytes, and a run that does not write the fetched bytes keeps them. -/
theorem storesAreSeenByTheNextFetch : Obligations.StoresAreSeenByTheNextFetch := by
  intro s x p _
  constructor
  · intro h
    exact ⟨_, (exec_ldB s x).trans (by rw [if_pos h]), fetchWord_of_run_after_store s _ _ p⟩
  · intro h
    exact ⟨_, (exec_stRegs s x).trans (by rw [if_pos h]), fetchWord_of_run_after_store s _ _ p⟩

end Sys2Proof.Machine
end

section
/-!
PROOFS, family 40_cycle.md. What a step does in a Running state (O5), and the fallback row (O31). The decoder takes the
fallback for every unrecognized word because `encode` undoes it: an instruction of the opcode table would put the word in
the row it is encoded in.
-/

namespace Sys2Proof

/-! ## The encoder undoes the decoder (R71, R74) -/

/-- A word is its format NNN packing. -/
theorem packNNN_fieldNNN {w : Word} {f : Nibble} (hf : (fieldF w).toNat = f.toNat) : packNNN f (fieldNNN w) = w := by
  apply BitVec.eq_of_toNat_eq
  rw [fieldF_toNat] at hf
  rw [packNNN_toNat, fieldNNN_toNat]
  omega

/-- A word is its format XNN packing. -/
theorem packXNN_fieldX {w : Word} {f : Nibble} {nn : Byte} (hf : (fieldF w).toNat = f.toNat)
    (hnn : (fieldNN w).toNat = nn.toNat) : packXNN f (fieldX w) nn = w := by
  apply BitVec.eq_of_toNat_eq
  rw [fieldF_toNat] at hf
  rw [fieldNN_toNat] at hnn
  rw [packXNN_toNat, fieldX_val]
  omega

/-- A word is its format XYN packing. -/
theorem packXYN_fieldX_fieldY {w : Word} {f n : Nibble} (hf : (fieldF w).toNat = f.toNat)
    (hn : (fieldN w).toNat = n.toNat) : packXYN f (fieldX w) (fieldY w) n = w := by
  apply BitVec.eq_of_toNat_eq
  rw [fieldF_toNat] at hf
  rw [fieldN_toNat] at hn
  rw [packXYN_toNat, fieldX_val, fieldY_val]
  omega

theorem encode_decode0 (w : Word) : encode (decode0 w) = w := by
  unfold decode0
  split
  iterate 2 exact BitVec.eq_of_toNat_eq (Eq.symm ‹_›)
  · rfl

theorem encode_decode5 {w : Word} (hf : (fieldF w).toNat = 0x5) : encode (decode5 w) = w := by
  unfold decode5
  split
  · exact packXYN_fieldX_fieldY hf ‹_›
  · rfl

theorem encode_decode8 {w : Word} (hf : (fieldF w).toNat = 0x8) : encode (decode8 w) = w := by
  unfold decode8
  split
  iterate 9 exact packXYN_fieldX_fieldY hf ‹_›
  · rfl

theorem encode_decode9 {w : Word} (hf : (fieldF w).toNat = 0x9) : encode (decode9 w) = w := by
  unfold decode9
  split
  · exact packXYN_fieldX_fieldY hf ‹_›
  · rfl

theorem encode_decodeE {w : Word} (hf : (fieldF w).toNat = 0xE) : encode (decodeE w) = w := by
  unfold decodeE
  split
  iterate 2 exact packXNN_fieldX hf ‹_›
  · rfl

theorem encode_decodeF {w : Word} (hf : (fieldF w).toNat = 0xF) : encode (decodeF w) = w := by
  unfold decodeF
  split
  iterate 9 exact packXNN_fieldX hf ‹_›
  · rfl

/-- R79: no word is lost by decoding it. -/
theorem encode_decodeWord (w : Word) : encode (decodeWord w) = w := by
  unfold decodeWord
  split
  next => exact encode_decode0 w
  iterate 2 exact packNNN_fieldNNN ‹_›
  iterate 2 exact packXNN_fieldX ‹_› rfl
  next hf => exact encode_decode5 hf
  iterate 2 exact packXNN_fieldX ‹_› rfl
  next hf => exact encode_decode8 hf
  next hf => exact encode_decode9 hf
  iterate 2 exact packNNN_fieldNNN ‹_›
  next hf => exact packXNN_fieldX hf rfl
  next hf => exact packXYN_fieldX_fieldY hf rfl
  next hf => exact encode_decodeE hf
  next =>
    have hlt := (fieldF w).isLt
    simp only [imp_false] at *
    exact encode_decodeF (by omega)

/-! ## The fallback row (R77, R97) -/

namespace Laws.EncodesInRow

/-- Every instruction is encoded in its own row of the opcode table. -/
theorem encodesInRow : ∀ i, Statement i
  | .cls => cls | .ret => ret | .jp _ => jp _ | .call _ => call _
  | .seImm _ _ => seImm _ _ | .sneImm _ _ => sneImm _ _ | .seReg _ _ => seReg _ _
  | .ldImm _ _ => ldImm _ _ | .addImm _ _ => addImm _ _
  | .ldReg _ _ => ldReg _ _ | .orReg _ _ => orReg _ _ | .andReg _ _ => andReg _ _ | .xorReg _ _ => xorReg _ _
  | .addReg _ _ => addReg _ _ | .subReg _ _ => subReg _ _ | .shr _ _ => shr _ _ | .subn _ _ => subn _ _
  | .shl _ _ => shl _ _
  | .sneReg _ _ => sneReg _ _ | .ldI _ => ldI _ | .jpV0 _ => jpV0 _ | .rnd _ _ => rnd _ _ | .drw _ _ _ => drw _ _ _
  | .skp _ => skp _ | .sknp _ => sknp _ | .ldVxDT _ => ldVxDT _ | .ldVxK _ => ldVxK _ | .ldDTVx _ => ldDTVx _
  | .ldSTVx _ => ldSTVx _ | .addI _ => addI _ | .ldF _ => ldF _ | .ldB _ => ldB _ | .stRegs _ => stRegs _
  | .ldRegs _ => ldRegs _
  | .nop _ => nop _

/-- Only the fallback has no row. -/
theorem exists_eq_nop_of_rowOf_eq_none {i : Instr} (h : rowOf i = none) : ∃ w, i = .nop w := by
  cases i with
  | nop w => exact ⟨w, rfl⟩
  | _ => nomatch h

/-- The word of an instruction other than the fallback is recognized. -/
theorem recognized_encode {i : Instr} (h : ∀ w, i ≠ .nop w) : recognized (encode i) = true := by
  have hi := encodesInRow i
  unfold Statement at hi
  cases hrow : rowOf i with
  | none =>
    obtain ⟨w, hw⟩ := exists_eq_nop_of_rowOf_eq_none hrow
    exact absurd hw (h w)
  | some row =>
    rw [hrow] at hi
    exact List.any_eq_true.mpr ⟨row, hi⟩

end Laws.EncodesInRow

/-- A word that no row covers decodes to the fallback. -/
theorem decodeWord_of_not_recognized {w : Word} (h : recognized w = false) : decodeWord w = .nop w := by
  by_cases hnop : ∃ w', decodeWord w = .nop w'
  · obtain ⟨w', hw'⟩ := hnop
    have henc : encode (.nop w') = w := hw' ▸ encode_decodeWord w
    exact hw'.trans (congrArg Instr.nop henc)
  · have hrec := Laws.EncodesInRow.recognized_encode (not_exists.mp hnop)
    rw [encode_decodeWord, h] at hrec
    cases hrec

/-- Two bytes decode to the instruction of their word. -/
theorem decode_two_bytes_eq_ok_iff (hi lo : Byte) (i : Instr) :
    decode [hi, lo] = .ok (i, []) ↔ decodeWord (wordOfBytes hi lo) = i := by
  simp [decode]

namespace Machine

/-! ## A step in a Running state (R93, R94, R95) -/

/-- The fetch check decides what a step does that finds no fault and no key wait. -/
theorem step_running {s : State} (hf : s.fault = none) (hw : s.waiting = false) :
    (4095 ≤ s.pc.toNat ∧ step s = .next (s.withFault .addressOutOfRange)) ∨
    (s.pc.toNat ≤ 4094 ∧ step s = exec (decodeWord s.fetchWord) s.advance) := by
  simpa [hf, hw] using step_cases s

/-- A step that fetches runs the decoded instruction on the advanced state. -/
theorem step_of_fetchReady {s : State} (h : s.FetchReady) : step s = exec (decodeWord s.fetchWord) s.advance := by
  rcases step_running h.noFault h.notWaiting with ⟨hpc, -⟩ | ⟨-, hstep⟩
  · have := h.pcInRange
    omega
  · exact hstep

/-- The fetch fault (R93): pc is outside the range of a fetch. -/
theorem step_of_fetch_out_of_range {s : State} (hf : s.fault = none) (hw : s.waiting = false) (hpc : 4095 ≤ s.pc.toNat) :
    step s = .next (s.withFault .addressOutOfRange) := by
  rcases step_running hf hw with ⟨-, hstep⟩ | ⟨hpc', -⟩
  · exact hstep
  · omega

/-- The fallback leaves the state as it is (R97). -/
theorem exec_nop (w : Word) (s : State) : exec (.nop w) s = .next s := rfl

/-- Settles O31: an unrecognized word decodes to the fallback, so the step is the advance of the fetch alone. -/
theorem unrecognizedWordsAreNoOps : Obligations.UnrecognizedWordsAreNoOps := by
  refine ⟨fun w => decodeWord_of_not_recognized, fun s w => exec_nop w s, fun s hready hrec => ?_⟩
  calc step s = exec (decodeWord s.fetchWord) s.advance := step_of_fetchReady hready
    _ = exec (.nop s.fetchWord) s.advance := by rw [decodeWord_of_not_recognized hrec]
    _ = .next s.advance := exec_nop _ _

/-- Settles O5: the fetch check splits the step at pc 4095, and the two bytes at pc are the word it decodes. -/
theorem stepFetchesAndRunsTheDecodedInstruction : Obligations.StepFetchesAndRunsTheDecodedInstruction := by
  refine fun s hf hw => ⟨step_of_fetch_out_of_range hf hw, fun hpc i hdecode => ?_⟩
  have hi : decodeWord s.fetchWord = i := (decode_two_bytes_eq_ok_iff _ _ i).mp hdecode
  rw [step_of_fetchReady ⟨hf, hw, hpc⟩, hi]
  rfl

end Machine

end Sys2Proof
end

section
/-!
PROOFS, family 41_family_0_to_7.md. What 00E0, 00EE, 1NNN, the four register skips, 6XNN and 7XNN do and leave unchanged
(O10, O11, O12, O14, O15). Each statement is a decoding of the instruction's row, one equation for its meaning, and a frame
built up along the named updates of the state.
-/

namespace Sys2Proof

/-! ## The fields a row of the opcode table fixes (R74, R76) -/

/-- A pattern under the mask `F000` fixes the family. -/
theorem fieldF_of_and_F000 {w p : Word} (h : w &&& 0xF000#16 = p) : (fieldF w).toNat = p.toNat / 4096 := by
  have hp := and_F000 w
  rw [h] at hp
  rw [fieldF_toNat]
  omega

/-- A pattern under the mask `F00F` fixes the family and N. -/
theorem fieldF_fieldN_of_and_F00F {w p : Word} (h : w &&& 0xF00F#16 = p) :
    (fieldF w).toNat = p.toNat / 4096 ∧ (fieldN w).toNat = p.toNat % 16 := by
  have hp := and_F00F w
  rw [h] at hp
  rw [fieldF_toNat, fieldN_toNat]
  omega

/-- A full word decodes to what the decoder reads from it. -/
theorem decodesAs_of_full_word {p : Word} {i : Instr} (h : decodeWord p = i) :
    Machine.DecodesAs 0xFFFF p (fun _ => i) := by
  intro w hw
  rw [← h, ← hw]
  exact congrArg decodeWord (and_FFFF w).symm

/-- `zext_16(NNN)` has four zero bits above NNN (R7, R72). -/
theorem zext16_eq_append (nnn : Addr12) : Machine.zext16 nnn = 0x0#4 ++ nnn := by
  apply BitVec.eq_of_toNat_eq
  have := nnn.isLt
  rw [Machine.zext16, toNat_append, BitVec.toNat_setWidth, BitVec.toNat_ofNat]
  omega

namespace Machine

/-! ## Decoding the rows of this family, and 9XY0 (R74) -/

theorem decodesAs_cls : DecodesAs 0xFFFF 0x00E0 (fun _ => .cls) := decodesAs_of_full_word rfl

theorem decodesAs_ret : DecodesAs 0xFFFF 0x00EE (fun _ => .ret) := decodesAs_of_full_word rfl

theorem decodesAs_jp : DecodesAs 0xF000 0x1000 (fun w => .jp (fieldNNN w)) := by
  intro w h; rw [decodeWord, fieldF_of_and_F000 h]; rfl

theorem decodesAs_seImm : DecodesAs 0xF000 0x3000 (fun w => .seImm (fieldX w) (fieldNN w)) := by
  intro w h; rw [decodeWord, fieldF_of_and_F000 h]; rfl

theorem decodesAs_sneImm : DecodesAs 0xF000 0x4000 (fun w => .sneImm (fieldX w) (fieldNN w)) := by
  intro w h; rw [decodeWord, fieldF_of_and_F000 h]; rfl

theorem decodesAs_seReg : DecodesAs 0xF00F 0x5000 (fun w => .seReg (fieldX w) (fieldY w)) := by
  intro w h
  obtain ⟨hF, hN⟩ := fieldF_fieldN_of_and_F00F h
  calc decodeWord w = decode5 w := by rw [decodeWord, hF]; rfl
    _ = .seReg (fieldX w) (fieldY w) := by rw [decode5, hN]; rfl

theorem decodesAs_ldImm : DecodesAs 0xF000 0x6000 (fun w => .ldImm (fieldX w) (fieldNN w)) := by
  intro w h; rw [decodeWord, fieldF_of_and_F000 h]; rfl

theorem decodesAs_addImm : DecodesAs 0xF000 0x7000 (fun w => .addImm (fieldX w) (fieldNN w)) := by
  intro w h; rw [decodeWord, fieldF_of_and_F000 h]; rfl

theorem decodesAs_sneReg : DecodesAs 0xF00F 0x9000 (fun w => .sneReg (fieldX w) (fieldY w)) := by
  intro w h
  obtain ⟨hF, hN⟩ := fieldF_fieldN_of_and_F00F h
  calc decodeWord w = decode9 w := by rw [decodeWord, hF]; rfl
    _ = .sneReg (fieldX w) (fieldY w) := by rw [decode9, hN]; rfl

/-! ## Frames: a named update keeps the frame of every footprint that names what it writes (R98) -/

namespace Unchanged

variable {f : Footprint} {s t : State}

theorem refl (f : Footprint) (s : State) : Unchanged f s s := by
  constructor <;> intros <;> rfl

theorem setPc (h : Unchanged f s t) (hf : f.pc = true) (w : Word) : Unchanged f s (t.setPc w) :=
  { h with pc := fun hn => absurd (hf.symm.trans hn) nofun }

theorem setFb (h : Unchanged f s t) (hf : f.fb = true) (fb : Framebuffer) : Unchanged f s (t.setFb fb) :=
  { h with fb := fun hn => absurd (hf.symm.trans hn) nofun }

theorem dropTop (h : Unchanged f s t) (hf : f.stack = true) : Unchanged f s t.dropTop :=
  { h with stack := fun hn => absurd (hf.symm.trans hn) nofun }

theorem writeV (h : Unchanged f s t) {x : RegIx} (hx : x ∈ f.regs) (b : Byte) : Unchanged f s (t.writeV x b) :=
  { h with
    regs := fun r hr => by
      have hne : r ≠ x := fun heq => hr (heq ▸ hx)
      rw [t.readV_writeV_other b hne, h.regs r hr] }

end Unchanged

/-! ## What each instruction answers -/

section
variable (s : State) (x y : RegIx) (nn : Byte) (nnn : Addr12)

theorem exec_cls : exec .cls s = .next (s.setFb Framebuffer.clear) := rfl

theorem exec_ret_of_stack_eq_cons {s : State} {top : Word} {rest : List Word} (h : s.stack = top :: rest) :
    exec .ret s = .next (s.dropTop.setPc top) := by
  simp only [exec, execRet, h]

theorem exec_ret_of_stack_eq_nil {s : State} (h : s.stack = []) :
    exec .ret s = .next (s.withFault .stackUnderflow) := by
  simp only [exec, execRet, h, raise]

theorem exec_jp : exec (.jp nnn) s = .next (s.setPc (zext16 nnn)) := rfl

theorem exec_call_of_not_full {s : State} (h : s.cfg.stackDepth ≠ some s.stack.length) (nnn : Addr12) :
    exec (.call nnn) s = .next ((s.push s.pc).setPc (zext16 nnn)) :=
  if_neg fun hfull => h (s.stackFull_iff.mp hfull)

theorem exec_seImm : exec (.seImm x nn) s = .next (s.skipIf (s.readV x == nn)) := rfl

theorem exec_sneImm : exec (.sneImm x nn) s = .next (s.skipIf (s.readV x != nn)) := rfl

theorem exec_seReg : exec (.seReg x y) s = .next (s.skipIf (s.readV x == s.readV y)) := rfl

theorem exec_sneReg : exec (.sneReg x y) s = .next (s.skipIf (s.readV x != s.readV y)) := rfl

theorem exec_ldImm : exec (.ldImm x nn) s = .next (s.writeV x nn) := rfl

theorem exec_addImm : exec (.addImm x nn) s = .next (s.writeV x (s.readV x + nn)) := rfl

/-- The source's law of R113: the return fetched at a call's target finds the pushed pc on top and gives back the state
of the call. -/
theorem exec_ret_of_push (target : Word) : exec .ret ((s.push s.pc).setPc target).advance = .next s :=
  exec_ret_of_stack_eq_cons (top := s.pc) (rest := s.stack) rfl

end

/-! ## The skips (R111) -/

variable {s : State} {i : Instr} {a b : Byte}

/-- A skip changes pc at most. -/
theorem unchanged_skipIf (s : State) (c : Bool) : Unchanged { pc := true } s (s.skipIf c) := by
  rw [s.skipIf_eq]
  exact (Unchanged.refl _ s).setPc rfl _

/-- An instruction that skips on equal bytes (R116, R118). -/
theorem skip_of_exec_eq_skipIf_beq (h : exec i s = .next (s.skipIf (a == b))) :
    ∃ t, exec i s = .next t ∧ t.pc = (if a = b then s.pc + 2 else s.pc) ∧ Unchanged { pc := true } s t := by
  refine ⟨_, h, ?_, unchanged_skipIf s _⟩
  simp only [State.skipIf_eq, State.setPc_pc, beq_iff_eq]

/-- An instruction that skips on different bytes (R117, R170). -/
theorem skip_of_exec_eq_skipIf_bne (h : exec i s = .next (s.skipIf (a != b))) :
    ∃ t, exec i s = .next t ∧ t.pc = (if a = b then s.pc else s.pc + 2) ∧ Unchanged { pc := true } s t := by
  refine ⟨_, h, ?_, unchanged_skipIf s _⟩
  simp only [State.skipIf_eq, State.setPc_pc, bne_iff_ne, ne_eq, ite_not]

/-! ## The statements -/

/-- Settles O10: 00E0 replaces the framebuffer by the clear one. -/
theorem clearTurnsEveryPixelOff : Obligations.ClearTurnsEveryPixelOff :=
  ⟨decodesAs_cls, fun s => ⟨_, exec_cls s, Framebuffer.pixel_clear, (Unchanged.refl _ s).setFb rfl _⟩⟩

/-- Settles O11: the return splits on the stack, and undoes the push and the jump of a call. -/
theorem returnPopsTheStack : Obligations.ReturnPopsTheStack := by
  refine ⟨decodesAs_ret, fun s => ⟨fun top rest h => ?_, exec_ret_of_stack_eq_nil, fun nnn h => ?_⟩⟩
  · have htail : s.stack.tail = rest := by rw [h, List.tail_cons]
    exact ⟨_, exec_ret_of_stack_eq_cons h, rfl, htail, ((Unchanged.refl _ s).dropTop rfl).setPc rfl _⟩
  · exact ⟨_, exec_call_of_not_full h nnn, zext16_eq_append nnn, exec_ret_of_push s _⟩

/-- Settles O12: 1NNN writes pc with NNN zero-extended. -/
theorem jumpSetsThePc : Obligations.JumpSetsThePc :=
  ⟨decodesAs_jp, fun s nnn => ⟨_, exec_jp s nnn, zext16_eq_append nnn, (Unchanged.refl _ s).setPc rfl _⟩⟩

/-- Settles O14: two skips on equal bytes, two on different ones. -/
theorem compareSkips : Obligations.CompareSkips := by
  refine ⟨decodesAs_seImm, decodesAs_sneImm, decodesAs_seReg, decodesAs_sneReg, fun s x y nn => ⟨?_, ?_, ?_, ?_⟩⟩
  · exact skip_of_exec_eq_skipIf_beq (exec_seImm s x nn)
  · exact skip_of_exec_eq_skipIf_bne (exec_sneImm s x nn)
  · exact skip_of_exec_eq_skipIf_beq (exec_seReg s x y)
  · exact skip_of_exec_eq_skipIf_bne (exec_sneReg s x y)

/-- Settles O15: one register write each, and byte addition is addition mod 256. -/
theorem loadAndAddImmediate : Obligations.LoadAndAddImmediate := by
  refine ⟨decodesAs_ldImm, decodesAs_addImm, fun s x nn => ?_⟩
  have hframe (b : Byte) : Unchanged { regs := [x] } s (s.writeV x b) :=
    (Unchanged.refl _ s).writeV (List.mem_singleton_self x) b
  constructor
  · exact ⟨_, exec_ldImm s x nn, s.readV_writeV_same x nn, hframe nn⟩
  · refine ⟨_, exec_addImm s x nn, ?_, hframe _⟩
    rw [s.readV_writeV_same, BitVec.toNat_add]

end Machine

end Sys2Proof
end

section
/-!
PROOFS, family 42_family_8.md, the rows without a flag. What 8XY0 to 8XY3 do and leave unchanged (O16). The four rows share
one decoding through `decode8` and one frame, that of a single register write; the bits of the result are those of the
library's bitwise operations.
-/

namespace Sys2Proof.Machine

/-! ## Decoding family 0x8 (R74, R76) -/

/-- A row of family 0x8 decodes as `decode8` reads its N digit. -/
theorem decodesAs_of_decode8 {p : Word} {f : Word → Instr} (hp : p.toNat / 4096 = 0x8)
    (hf : ∀ w, (fieldN w).toNat = p.toNat % 16 → decode8 w = f w) : DecodesAs 0xF00F p f := by
  intro w h
  obtain ⟨hF, hN⟩ := fieldF_fieldN_of_and_F00F h
  calc decodeWord w = decode8 w := by rw [decodeWord, hF, hp]; rfl
    _ = f w := hf w hN

theorem decodesAs_ldReg : DecodesAs 0xF00F 0x8000 (fun w => .ldReg (fieldX w) (fieldY w)) :=
  decodesAs_of_decode8 rfl fun w hN => by rw [decode8, hN]; rfl

theorem decodesAs_orReg : DecodesAs 0xF00F 0x8001 (fun w => .orReg (fieldX w) (fieldY w)) :=
  decodesAs_of_decode8 rfl fun w hN => by rw [decode8, hN]; rfl

theorem decodesAs_andReg : DecodesAs 0xF00F 0x8002 (fun w => .andReg (fieldX w) (fieldY w)) :=
  decodesAs_of_decode8 rfl fun w hN => by rw [decode8, hN]; rfl

theorem decodesAs_xorReg : DecodesAs 0xF00F 0x8003 (fun w => .xorReg (fieldX w) (fieldY w)) :=
  decodesAs_of_decode8 rfl fun w hN => by rw [decode8, hN]; rfl

section
variable (s : State) (x y : RegIx)

/-! ## What each instruction answers (R142 to R145) -/

theorem exec_ldReg : exec (.ldReg x y) s = .next (s.writeV x (s.readV y)) := rfl

theorem exec_orReg : exec (.orReg x y) s = .next (s.writeV x (s.readV x ||| s.readV y)) := rfl

theorem exec_andReg : exec (.andReg x y) s = .next (s.writeV x (s.readV x &&& s.readV y)) := rfl

theorem exec_xorReg : exec (.xorReg x y) s = .next (s.writeV x (s.readV x ^^^ s.readV y)) := rfl

/-- Writing V[X] changes V[X] at most (R98). -/
theorem unchanged_writeV (b : Byte) : Unchanged { regs := [x] } s (s.writeV x b) :=
  (Unchanged.refl _ s).writeV (List.mem_singleton_self x) b

end

/-! ## The statement -/

/-- Settles O16: each row writes V[X] once, with V[Y] or with a bitwise operation, which acts on each bit by itself. -/
theorem copyAndLogic : Obligations.CopyAndLogic := by
  refine ⟨decodesAs_ldReg, decodesAs_orReg, decodesAs_andReg, decodesAs_xorReg, fun s x y => ⟨?_, ?_, ?_, ?_⟩⟩
  · exact ⟨_, exec_ldReg s x y, s.readV_writeV_same x _, unchanged_writeV s x _⟩
  · refine ⟨_, exec_orReg s x y, unchanged_writeV s x _, fun j => ?_⟩
    rw [s.readV_writeV_same]
    exact BitVec.getElem_or j.isLt
  · refine ⟨_, exec_andReg s x y, unchanged_writeV s x _, fun j => ?_⟩
    rw [s.readV_writeV_same]
    exact BitVec.getElem_and j.isLt
  · refine ⟨_, exec_xorReg s x y, unchanged_writeV s x _, fun j => ?_⟩
    rw [s.readV_writeV_same]
    exact BitVec.getElem_xor j.isLt

end Sys2Proof.Machine
end

section
/-!
PROOFS, the instructions that write I: ANNN (43_family_9_to_D.md R171), FX1E and FX29 (R206, R208). What they do and leave
unchanged (O20). Each answers one write of I, so the three share one frame; what is left is the decoding of the rows and
the arithmetic of the value written.
-/

namespace Sys2Proof

/-- A pattern under the mask `F0FF` fixes the family and NN. -/
theorem fieldF_fieldNN_of_and_F0FF {w p : Word} (h : w &&& 0xF0FF#16 = p) :
    (fieldF w).toNat = p.toNat / 4096 ∧ (fieldNN w).toNat = p.toNat % 256 := by
  have hp := and_F0FF w
  rw [h] at hp
  rw [fieldF_toNat, fieldNN_toNat]
  omega

namespace Machine

/-! ## Decoding ANNN and the rows of family 0xF (R74, R76, R215) -/

theorem decodesAs_ldI : DecodesAs 0xF000 0xA000 (fun w => .ldI (fieldNNN w)) := by
  intro w h; rw [decodeWord, fieldF_of_and_F000 h]; rfl

/-- A row of family 0xF decodes as `decodeF` reads its NN byte. -/
theorem decodesAs_of_decodeF {p : Word} {f : Word → Instr} (hp : p.toNat / 4096 = 0xF)
    (hf : ∀ w, (fieldNN w).toNat = p.toNat % 256 → decodeF w = f w) : DecodesAs 0xF0FF p f := by
  intro w h
  obtain ⟨hF, hNN⟩ := fieldF_fieldNN_of_and_F0FF h
  calc decodeWord w = decodeF w := by rw [decodeWord, hF, hp]; rfl
    _ = f w := hf w hNN

theorem decodesAs_addI : DecodesAs 0xF0FF 0xF01E (fun w => .addI (fieldX w)) :=
  decodesAs_of_decodeF rfl fun w hNN => by rw [decodeF, hNN]; rfl

theorem decodesAs_ldF : DecodesAs 0xF0FF 0xF029 (fun w => .ldF (fieldX w)) :=
  decodesAs_of_decodeF rfl fun w hNN => by rw [decodeF, hNN]; rfl

/-! ## The values written -/

theorem byteToWord_toNat (b : Byte) : (byteToWord b).toNat = b.toNat :=
  BitVec.toNat_setWidth_of_le (by decide)

/-- The glyphs lie five bytes apart from 0x50 on, sixteen of them (R208). -/
theorem glyphAddr_toNat (vx : Byte) : (glyphAddr vx).toNat = 0x50 + vx.toNat % 16 * 5 := by
  have hnibble : (vx &&& 0xF).toNat = vx.toNat % 16 := by
    rw [BitVec.toNat_and]; exact Nat.and_two_pow_sub_one_eq_mod vx.toNat 4
  rw [glyphAddr, BitVec.toNat_ofNat, hnibble, fontBase, glyphBytes]
  omega

/-! ## What each instruction answers, and the frame of a write of I (R98) -/

theorem Unchanged.setI {f : Footprint} {s t : State} (h : Unchanged f s t) (hf : f.index = true) (w : Word) :
    Unchanged f s (t.setI w) :=
  { h with index := fun hn => absurd (hf.symm.trans hn) nofun }

section
variable (s : State) (x : RegIx)

theorem exec_ldI (nnn : Addr12) : exec (.ldI nnn) s = .next (s.setI (zext16 nnn)) := rfl

theorem exec_addI : exec (.addI x) s = .next (s.setI (s.I + byteToWord (s.readV x))) := rfl

theorem exec_ldF : exec (.ldF x) s = .next (s.setI (glyphAddr (s.readV x))) := rfl

/-- Writing I changes I at most. -/
theorem unchanged_setI (w : Word) : Unchanged { index := true } s (s.setI w) := (Unchanged.refl _ s).setI rfl w

end

/-! ## The statement -/

/-- Settles O20: each of the three writes I once, with NNN zero-extended, a sum mod 65536, or a glyph's address. -/
theorem indexInstructions : Obligations.IndexInstructions := by
  refine ⟨decodesAs_ldI, decodesAs_addI, decodesAs_ldF, fun s x nnn => ⟨?_, ?_, ?_⟩⟩
  · exact ⟨_, exec_ldI s nnn, zext16_eq_append nnn, unchanged_setI s _⟩
  · refine ⟨_, exec_addI s x, ?_, unchanged_setI s _⟩
    rw [s.setI_I, BitVec.toNat_add, byteToWord_toNat]
  · have hI : (s.setI (glyphAddr (s.readV x))).I.toNat = 0x50 + (s.readV x).toNat % 16 * 5 := glyphAddr_toNat _
    exact ⟨_, exec_ldF s x, hI, by omega, by omega, unchanged_setI s _⟩

end Machine

end Sys2Proof
end

section
/-!
PROOFS, family 44_family_E_F.md, the timers and the key wait. What FX07, FX15, FX18 and FX0A do and leave unchanged
(O26, O27), and what a step does while the key-wait latch is set (O7). The two ends of a key wait share the frame of the
latch; the poll's own fact is which key it takes, and that it takes none from an idle keypad.
-/

namespace Sys2Proof.Machine

/-! ## Decoding FX07, FX0A, FX15 and FX18 (R74, R76, R215) -/

theorem decodesAs_ldVxDT : DecodesAs 0xF0FF 0xF007 (fun w => .ldVxDT (fieldX w)) :=
  decodesAs_of_decodeF rfl fun w hNN => by rw [decodeF, hNN]; rfl

theorem decodesAs_ldVxK : DecodesAs 0xF0FF 0xF00A (fun w => .ldVxK (fieldX w)) :=
  decodesAs_of_decodeF rfl fun w hNN => by rw [decodeF, hNN]; rfl

theorem decodesAs_ldDTVx : DecodesAs 0xF0FF 0xF015 (fun w => .ldDTVx (fieldX w)) :=
  decodesAs_of_decodeF rfl fun w hNN => by rw [decodeF, hNN]; rfl

theorem decodesAs_ldSTVx : DecodesAs 0xF0FF 0xF018 (fun w => .ldSTVx (fieldX w)) :=
  decodesAs_of_decodeF rfl fun w hNN => by rw [decodeF, hNN]; rfl

/-! ## Frames of the timer writes and of the latch (R98) -/

namespace Unchanged

variable {f : Footprint} {s t : State}

theorem setDt (h : Unchanged f s t) (hf : f.dt = true) (b : Byte) : Unchanged f s (t.setDt b) :=
  { h with dt := fun hn => absurd (hf.symm.trans hn) nofun }

theorem setSt (h : Unchanged f s t) (hf : f.st = true) (b : Byte) : Unchanged f s (t.setSt b) :=
  { h with st := fun hn => absurd (hf.symm.trans hn) nofun }

theorem beginWait (h : Unchanged f s t) (hf : f.latch = true) (r : RegIx) : Unchanged f s (t.beginWait r) :=
  { h with
    waiting := fun hn => absurd (hf.symm.trans hn) nofun
    waitReg := fun hn => absurd (hf.symm.trans hn) nofun }

theorem endWait (h : Unchanged f s t) (hf : f.latch = true) : Unchanged f s t.endWait :=
  { h with waiting := fun hn => absurd (hf.symm.trans hn) nofun }

end Unchanged

/-! ## What each instruction answers -/

section
variable (s : State) (x : RegIx)

theorem exec_ldVxDT : exec (.ldVxDT x) s = .next (s.writeV x s.dt) := rfl

theorem exec_ldDTVx : exec (.ldDTVx x) s = .next (s.setDt (s.readV x)) := rfl

theorem exec_ldSTVx : exec (.ldSTVx x) s = .next (s.setSt (s.readV x)) := rfl

theorem exec_ldVxK : exec (.ldVxK x) s = .next (s.beginWait x) := rfl

end

/-! ## The poll of a key wait (R212, R213) -/

section
variable {s : State}

/-- A step that finds the latch set and no fault is one poll of the keypad. -/
theorem step_of_waiting (hf : s.fault = none) (hw : s.waiting = true) : step s = .next (keyWaitPoll s) := by
  simpa [hf, hw] using step_cases s

theorem keyWaitPoll_of_lowestKey_eq_some {k : RegIx} (h : s.lowestKey = some k) :
    keyWaitPoll s = (s.writeV s.waitReg (BitVec.ofNat 8 k.val)).endWait := by
  rw [keyWaitPoll, h]

theorem keyWaitPoll_of_lowestKey_eq_none (h : s.lowestKey = none) : keyWaitPoll s = s := by
  rw [keyWaitPoll, h]

end

/-! ## The statements -/

/-- Settles O7: a step of a waiting state is one poll, and the lowest pressed key decides what the poll does. -/
theorem keyWaitPollTakesTheLowestPressedKey : Obligations.KeyWaitPollTakesTheLowestPressedKey := by
  refine fun s hf hw => ⟨fun k hk hlow => ?_, fun hidle => ?_⟩
  · have hstep : step s = .next (s.writeV s.waitReg (BitVec.ofNat 8 k.val)).endWait := by
      rw [step_of_waiting hf hw, keyWaitPoll_of_lowestKey_eq_some (s.lowestKey_eq_some hk hlow)]
    have hframe : Unchanged { regs := [s.waitReg], latch := true } s
        (s.writeV s.waitReg (BitVec.ofNat 8 k.val)).endWait :=
      ((Unchanged.refl _ s).writeV (List.mem_singleton_self s.waitReg) _).endWait rfl
    exact ⟨_, hstep, s.readV_writeV_same s.waitReg _, rfl, rfl, hframe⟩
  · rw [step_of_waiting hf hw, keyWaitPoll_of_lowestKey_eq_none (s.lowestKey_eq_none hidle)]

/-- Settles O26: one write each; along 6XNN, FX15 and FX07 the byte NN passes from V[X] to DT, and on from DT. -/
theorem timerInstructions : Obligations.TimerInstructions := by
  refine ⟨decodesAs_ldVxDT, decodesAs_ldDTVx, decodesAs_ldSTVx, fun s x => ⟨?_, ?_, ?_, fun b nn => ?_⟩⟩
  · exact ⟨_, exec_ldVxDT s x, s.readV_writeV_same x s.dt, unchanged_writeV s x s.dt⟩
  · exact ⟨_, exec_ldDTVx s x, rfl, (Unchanged.refl _ s).setDt rfl _⟩
  · exact ⟨_, exec_ldSTVx s x, rfl, (Unchanged.refl _ s).setSt rfl _⟩
  · refine ⟨_, _, _, exec_ldImm s x nn, exec_ldDTVx _ x, exec_ldVxDT _ b, ?_, ?_⟩
    · calc State.readV _ b = (s.writeV x nn).readV x := State.readV_writeV_same _ b _
        _ = nn := s.readV_writeV_same x nn
    · exact s.readV_writeV_same x nn

/-- Settles O27: FX0A begins the wait for X, and beginning a wait writes the latch alone. -/
theorem waitForKeySetsTheLatch : Obligations.WaitForKeySetsTheLatch :=
  ⟨decodesAs_ldVxK, fun s x => ⟨_, exec_ldVxK s x, rfl, rfl, (Unchanged.refl _ s).beginWait rfl x⟩⟩

end Sys2Proof.Machine
end

section
/-!
PROOFS, family 60_exceptions.md, the timer tick (O4). One timer's tick is the truncated predecessor of its byte; the frame is
that of the two timer writes, which FX15 and FX18 share.
-/

namespace Sys2Proof.Machine

/-- The floor at 0 makes the byte subtraction the truncated one on naturals (R248). -/
theorem tickTimer_toNat (b : Byte) : (tickTimer b).toNat = b.toNat - 1 := by
  rw [tickTimer]
  split_ifs with hzero
  · rw [hzero]; rfl
  · have hpos : 1#8 ≤ b := by bv_omega
    exact BitVec.toNat_sub_of_le hpos

section
variable (s : State)

@[simp] theorem State.tickTimers_dt : s.tickTimers.dt = tickTimer s.dt := rfl

@[simp] theorem State.tickTimers_st : s.tickTimers.st = tickTimer s.st := rfl

/-- A tick changes the two timers at most. -/
theorem unchanged_tickTimers : Unchanged { dt := true, st := true } s s.tickTimers :=
  ((Unchanged.refl _ s).setDt rfl _).setSt rfl _

end

/-- Settles O4: a tick writes each timer once with the truncated predecessor of its byte, in every macro-state. -/
theorem tickCountsBothTimersDownToZero : Obligations.TickCountsBothTimersDownToZero := by
  refine fun s => ⟨?_, ?_, unchanged_tickTimers s⟩
  · rw [s.tickTimers_dt, tickTimer_toNat]
  · rw [s.tickTimers_st, tickTimer_toNat]

end Sys2Proof.Machine
end

section
/-!
PROOFS, the two ways an instruction ends (40_cycle.md R98, 60_exceptions.md R240 to R243). Under its rule's condition it takes
the fault (`exec_of_raises`); otherwise it completes within its footprint and leaves the fault latch alone
(`exec_of_raises_eq_none`). From the two follow O32 and O33, and later proofs take an instruction apart by them.
-/

namespace Sys2Proof.Machine

/-! ## The frames of the named updates not met before -/

namespace Unchanged

variable {f : Footprint} {s t : State}

theorem push (h : Unchanged f s t) (hf : f.stack = true) (w : Word) : Unchanged f s (t.push w) :=
  { h with stack := fun hn => absurd (hf.symm.trans hn) nofun }

theorem setV (h : Unchanged f s t) {v : RegFile} (hv : ∀ r : RegIx, r ∉ f.regs → v[r] = s.readV r) :
    Unchanged f s (t.setV v) :=
  { h with regs := hv }

theorem countDraw (h : Unchanged f s t) (hf : f.draws = true) : Unchanged f s t.countDraw :=
  { h with draws := fun hn => absurd (hf.symm.trans hn) nofun }

theorem withFault (h : Unchanged f s t) (hf : f.fault = true) (k : Fault) : Unchanged f s (t.withFault k) :=
  { h with fault := fun hn => absurd (hf.symm.trans hn) nofun }

/-- A footprint may name the fault latch besides. -/
theorem with_fault (h : Unchanged { f with fault := false } s t) : Unchanged f s t :=
  { h with fault := fun _ => h.fault rfl }

end Unchanged

section
variable (s : State) (x : RegIx)

/-- A write of V[X] and then of VF changes these two registers at most (R96). -/
theorem unchanged_writeWithFlag (b : Byte) (c : Bool) : Unchanged { regs := [x, VF] } s (s.writeWithFlag x b c) :=
  ((Unchanged.refl _ s).writeV (by simp) b).writeV (by simp) _

/-- A store at I changes the bytes at its data addresses at most (R58). -/
theorem unchanged_storeBytes_I (bs : List Byte) :
    Unchanged { stored := s.dataAddrs bs.length } s (s.storeBytes s.I.toNat bs) :=
  { Unchanged.refl _ s with mem := fun _ ha => s.readByte_storeBytes_I ha }

/-- FX55 stores at its own data addresses (R210). -/
theorem unchanged_storeBytes_firstRegs :
    Unchanged { stored := s.dataAddrs (regCount x) } s (s.storeBytes s.I.toNat (s.firstRegs x)) := by
  have hframe := unchanged_storeBytes_I s (s.firstRegs x)
  rwa [s.length_firstRegs] at hframe

/-- The block load changes V0..VX at most (R211). -/
theorem unchanged_setV_regsFromMemory :
    Unchanged { regs := (List.finRange 16).filter (· ≤ x) } s (s.setV (s.regsFromMemory x)) := by
  refine (Unchanged.refl _ s).setV fun r hr => ?_
  have habove : ¬ r ≤ x := by simpa using hr
  exact (s.readV_setV_regsFromMemory x r).trans (if_neg habove)

end

/-! ## The instructions that can fault: what each answers on either side of its check -/

/-- The drawing DXYN makes: the sprite at I on the framebuffer, anchored at (V[X], V[Y]) (R174). -/
def State.spriteDrawing (s : State) (x y : RegIx) (n : Nibble) : Drawing :=
  drawSprite (anchorX (s.readV x)) (anchorY (s.readV y)) (s.readBytes s.I.toNat n.toNat) s.fb

/-- `FX65` with its range check in numbers (R211, R59). -/
theorem exec_ldRegs (s : State) (x : RegIx) :
    exec (.ldRegs x) s = .next (if s.I.toNat + x.val ≤ 4095 then s.setV (s.regsFromMemory x)
      else s.withFault .dataAddressOutOfRange) := by
  have hrange : s.dataInRange (regCount x) = true ↔ s.I.toNat + x.val ≤ 4095 := by
    rw [s.dataInRange_iff, regCount]; omega
  simp only [exec, execLdRegs, raise, hrange]
  split <;> rfl

section
variable {s : State} {x : RegIx} {n : Nibble}

theorem exec_ldB_of_le (h : s.I.toNat + 2 ≤ 4095) :
    exec (.ldB x) s = .next (s.storeBytes s.I.toNat (decimalDigits (s.readV x))) := by
  rw [exec_ldB, if_pos h]

theorem exec_stRegs_of_le (h : s.I.toNat + x.val ≤ 4095) :
    exec (.stRegs x) s = .next (s.storeBytes s.I.toNat (s.firstRegs x)) := by
  rw [exec_stRegs, if_pos h]

theorem exec_ldRegs_of_le (h : s.I.toNat + x.val ≤ 4095) :
    exec (.ldRegs x) s = .next (s.setV (s.regsFromMemory x)) := by
  rw [exec_ldRegs, if_pos h]

theorem exec_call_of_full (h : s.cfg.stackDepth = some s.stack.length) (nnn : Addr12) :
    exec (.call nnn) s = .next (s.withFault .stackOverflow) :=
  if_pos (s.stackFull_iff.mpr h)

/-- A key skip with a key index in V[X] (R200, R201). -/
theorem keySkip_of_toNat_eq {k : RegIx} (h : (s.readV x).toNat = k.val) (down : Bool) :
    keySkip x down s = .next (s.skipIf (s.key[k] == down)) := by
  rw [keySkip, s.keyAt_of_toNat_eq h]

/-- A key skip with no key index in V[X] (R202). -/
theorem keySkip_of_above (h : (s.readV x).toNat > 15) (down : Bool) :
    keySkip x down s = .next (s.withFault .keyIndexOutOfRange) := by
  rw [keySkip, s.keyAt_above h, raise]

/-- The range check of DXYN in numbers: with N = 0 there is nothing to check (R59, R174). -/
theorem dataInRange_nibble_iff : s.dataInRange n.toNat = true ↔ n = 0 ∨ s.I.toNat + n.toNat - 1 ≤ 4095 := by
  rw [s.dataInRange_iff, ← BitVec.toNat_inj (y := 0)]
  rfl

theorem exec_drw_of_inRange (h : n = 0 ∨ s.I.toNat + n.toNat - 1 ≤ 4095) (x y : RegIx) :
    exec (.drw x y n) s =
      .next ((s.setFb (s.spriteDrawing x y n).fb).writeV VF (flagByte (s.spriteDrawing x y n).collided)) :=
  if_pos (dataInRange_nibble_iff.mpr h)

theorem exec_drw_of_outOfRange (h : n ≠ 0 ∧ s.I.toNat + n.toNat - 1 > 4095) (x y : RegIx) :
    exec (.drw x y n) s = .next (s.withFault .dataAddressOutOfRange) := by
  refine if_neg fun hin => ?_
  rcases dataInRange_nibble_iff.mp hin with hzero | hle
  · exact h.1 hzero
  · exact Nat.not_le.mpr h.2 hle

end

/-! ## When nothing is raised -/

section
variable {s : State} {x : RegIx}

theorem raises_ret_eq_none : raises s .ret = none ↔ s.stack ≠ [] := by simp [raises]

theorem raises_call_eq_none {nnn : Addr12} :
    raises s (.call nnn) = none ↔ s.cfg.stackDepth ≠ some s.stack.length := by simp [raises]

theorem raises_drw_eq_none {y : RegIx} {n : Nibble} :
    raises s (.drw x y n) = none ↔ n = 0 ∨ s.I.toNat + n.toNat - 1 ≤ 4095 := by
  simp [raises, Classical.or_iff_not_imp_left]

/-- Both key skips raise nothing on the same key indexes. -/
theorem raises_skp_eq_none : raises s (.skp x) = none ↔ (s.readV x).toNat < 16 := by simp [raises, Nat.lt_succ_iff]

theorem raises_ldB_eq_none : raises s (.ldB x) = none ↔ s.I.toNat + 2 ≤ 4095 := by simp [raises]

theorem raises_stRegs_eq_none : raises s (.stRegs x) = none ↔ s.I.toNat + x.val ≤ 4095 := by simp [raises]

theorem raises_ldRegs_eq_none : raises s (.ldRegs x) = none ↔ s.I.toNat + x.val ≤ 4095 := by simp [raises]

end

/-! ## The two ends of an instruction -/

variable {i : Instr} {s : State}

/-- Under its rule's condition an instruction latches its fault and changes nothing else (R242). -/
theorem exec_of_raises {k : Fault} (h : raises s i = some k) : exec i s = .next (s.withFault k) := by
  cases i with
  | ret =>
    obtain ⟨hstack, ⟨⟩⟩ := Option.ite_none_right_eq_some.mp h
    exact exec_ret_of_stack_eq_nil hstack
  | call nnn =>
    obtain ⟨hfull, ⟨⟩⟩ := Option.ite_none_right_eq_some.mp h
    exact exec_call_of_full hfull nnn
  | drw x y n =>
    obtain ⟨hout, ⟨⟩⟩ := Option.ite_none_right_eq_some.mp h
    exact exec_drw_of_outOfRange hout x y
  | skp x | sknp x =>
    obtain ⟨habove, ⟨⟩⟩ := Option.ite_none_right_eq_some.mp h
    exact keySkip_of_above habove _
  | ldB x =>
    obtain ⟨hout, ⟨⟩⟩ := Option.ite_none_right_eq_some.mp h
    rw [exec_ldB, if_neg (by omega)]
  | stRegs x =>
    obtain ⟨hout, ⟨⟩⟩ := Option.ite_none_right_eq_some.mp h
    rw [exec_stRegs, if_neg (by omega)]
  | ldRegs x =>
    obtain ⟨hout, ⟨⟩⟩ := Option.ite_none_right_eq_some.mp h
    rw [exec_ldRegs, if_neg (by omega)]
  | _ => cases h

/-- Only an instruction whose footprint names the fault latch raises. -/
theorem footprint_fault_of_raises {k : Fault} (h : raises s i = some k) : (footprint s i).fault = true := by
  cases i with
  | ret | call | drw | skp | sknp | ldB | stRegs | ldRegs => rfl
  | _ => cases h

/-- An instruction that raises nothing completes within its footprint and leaves the fault latch alone (R98). -/
theorem exec_of_raises_eq_none (h : raises s i = none) :
    ∃ t, exec i s = .next t ∧ Unchanged { footprint s i with fault := false } s t := by
  cases i with
  | cls => exact ⟨_, exec_cls s, (Unchanged.refl _ s).setFb rfl _⟩
  | ret =>
    obtain ⟨top, rest, hstack⟩ := List.exists_cons_of_ne_nil (raises_ret_eq_none.mp h)
    exact ⟨_, exec_ret_of_stack_eq_cons hstack, ((Unchanged.refl _ s).dropTop rfl).setPc rfl _⟩
  | jp | jpV0 => exact ⟨_, rfl, (Unchanged.refl _ s).setPc rfl _⟩
  | call nnn =>
    exact ⟨_, exec_call_of_not_full (raises_call_eq_none.mp h) nnn, ((Unchanged.refl _ s).push rfl _).setPc rfl _⟩
  | seImm | sneImm | seReg | sneReg => exact ⟨_, rfl, unchanged_skipIf s _⟩
  | ldImm | addImm | ldReg | orReg | andReg | xorReg | ldVxDT => exact ⟨_, rfl, unchanged_writeV s _ _⟩
  | addReg | subReg | shr | subn | shl => exact ⟨_, rfl, unchanged_writeWithFlag s _ _ _⟩
  | ldI | addI | ldF => exact ⟨_, rfl, unchanged_setI s _⟩
  | rnd => exact ⟨_, rfl, ((Unchanged.refl _ s).writeV (List.mem_singleton_self _) _).countDraw rfl⟩
  | drw x y n =>
    exact ⟨_, exec_drw_of_inRange (raises_drw_eq_none.mp h) x y,
      ((Unchanged.refl _ s).setFb rfl _).writeV (List.mem_singleton_self VF) _⟩
  | skp x | sknp x =>
    exact ⟨_, keySkip_of_toNat_eq (k := ⟨_, raises_skp_eq_none.mp h⟩) rfl _, unchanged_skipIf s _⟩
  | ldVxK x => exact ⟨_, rfl, (Unchanged.refl _ s).beginWait rfl x⟩
  | ldDTVx => exact ⟨_, rfl, (Unchanged.refl _ s).setDt rfl _⟩
  | ldSTVx => exact ⟨_, rfl, (Unchanged.refl _ s).setSt rfl _⟩
  | ldB x =>
    exact ⟨_, exec_ldB_of_le (raises_ldB_eq_none.mp h), unchanged_storeBytes_I s (decimalDigits (s.readV x))⟩
  | stRegs x =>
    exact ⟨_, exec_stRegs_of_le (raises_stRegs_eq_none.mp h), unchanged_storeBytes_firstRegs s x⟩
  | ldRegs x =>
    exact ⟨_, exec_ldRegs_of_le (raises_ldRegs_eq_none.mp h), unchanged_setV_regsFromMemory s x⟩
  | nop w => exact ⟨s, exec_nop w s, Unchanged.refl _ s⟩

/-! ## The statements -/

/-- Settles O33: the two ends of an instruction. -/
theorem faultsArePrecise : Obligations.FaultsArePrecise := by
  refine fun i s => ⟨fun k => exec_of_raises, fun h => ?_⟩
  obtain ⟨t, ht, hframe⟩ := exec_of_raises_eq_none h
  exact ⟨t, ht, hframe.fault rfl⟩

/-- Settles O32: an instruction that faults writes the latch, which its footprint names then; otherwise it stays within
its footprint. -/
theorem everyInstructionKeepsItsFrame : Obligations.EveryInstructionKeepsItsFrame := by
  intro i s
  cases h : raises s i with
  | some k => exact ⟨_, exec_of_raises h, (Unchanged.refl _ s).withFault (footprint_fault_of_raises h) k⟩
  | none =>
    obtain ⟨t, ht, hframe⟩ := exec_of_raises_eq_none h
    exact ⟨t, ht, hframe.with_fault⟩

end Sys2Proof.Machine
end

section
/-!
PROOFS, reset and load (70_reset_and_hazards.md R270 to R273) and the host's accessors (60_exceptions.md R240, R250 to R253).
A load decides by the image's length (O3); where it succeeds it leaves the power-on registers (O1) and, in memory, the image
over the font and zeros (O2). The rest is O42.
-/

namespace Sys2Proof.Machine

/-! ## Power-on (R38, R273) -/

theorem readV_reset (r : RegIx) : State.reset.readV r = 0 := Vector.getElem_replicate r.isLt

theorem key_reset (k : RegIx) : State.reset.key[k] = false := Vector.getElem_replicate k.isLt

/-- Settles O1: the fields as `State.reset` writes them, and memory as nothing stored reads. -/
theorem resetIsThePowerOnState : Obligations.ResetIsThePowerOnState := by
  refine ⟨readV_reset, rfl, rfl, rfl, rfl, rfl, key_reset, Framebuffer.pixel_clear, rfl, rfl, rfl, rfl, fun j h => ?_,
    fun a _ ha => ?_⟩
  · rw [State.readByte_reset, Memory.initByte_font]
  · rw [State.readByte_reset, Memory.initByte_zero _ a ha]

/-! ## Load (R270, R271) -/

section
variable {s : State} {image : List Byte}

theorem load_of_le (h : image.length ≤ 3584) : s.load image = (.ok, s.loaded image) := if_pos h

theorem load_of_lt (h : 3584 < image.length) : s.load image = (.imageTooLarge, s) := if_neg (Nat.not_le.mpr h)

/-- A load that reports success has taken the image. -/
theorem load_of_ok (h : (s.load image).1 = .ok) : (s.load image).2 = s.loaded image := by
  rcases Nat.lt_or_ge 3584 image.length with hlen | hlen
  · rw [load_of_lt hlen] at h
    cases h
  · rw [load_of_le hlen]

/-- A load that refuses the image leaves the state (D9). -/
theorem load_of_imageTooLarge (h : (s.load image).1 = .imageTooLarge) : (s.load image).2 = s := by
  rcases Nat.lt_or_ge 3584 image.length with hlen | hlen
  · rw [load_of_lt hlen]
  · rw [load_of_le hlen] at h
    cases h

theorem load_keeps_cfg (s : State) (image : List Byte) : (s.load image).2.cfg = s.cfg := by
  unfold State.load
  split_ifs <;> rfl

/-- Memory after a load: the image at 0x200, and under it what an empty image leaves (R271). -/
theorem readByte_loaded (s : State) (image : List Byte) (a : Nat) :
    (s.loaded image).readByte a =
      if 0x200 ≤ a then (image[a - 0x200]?).getD (Memory.initByte s.cfg.font a) else Memory.initByte s.cfg.font a :=
  Memory.read_writeAll ..

/-- An address outside the image reads as after a load of an empty image. -/
theorem readByte_loaded_outside {a : Nat} (h : ¬ (0x200 ≤ a ∧ a < 0x200 + image.length)) :
    (s.loaded image).readByte a = Memory.initByte s.cfg.font a := by
  rw [readByte_loaded]
  split_ifs with hle
  · rw [List.getElem?_eq_none (by omega), Option.getD_none]
  · rfl

end

/-- Settles O3: the length check of a load fails. -/
theorem loadRefusesTooLargeImages : Obligations.LoadRefusesTooLargeImages := fun _ _ => load_of_lt

/-- Settles O2: the image, the font below it and the zeros elsewhere lie apart; the registers are those of power-on. -/
theorem loadResetsEveryPieceOfState : Obligations.LoadResetsEveryPieceOfState := by
  intro s image hlen
  refine ⟨s.loaded image, load_of_le hlen, fun j h => ?_, fun j h => ?_, fun a _ hfont himage => ?_, rfl, readV_reset,
    rfl, rfl, rfl, rfl, Framebuffer.pixel_clear, rfl, rfl, rfl, rfl, rfl, rfl⟩
  · simp [readByte_loaded, h]
  · rw [readByte_loaded_outside (by omega), Memory.initByte_font]
  · rw [readByte_loaded_outside himage, Memory.initByte_zero _ a hfont]

/-! ## The host's accessors -/

/-- The linear index of a pixel gives back its coordinates (D21). -/
theorem pixelAt_linear (s : State) (x : Fin 64) (y : Fin 32) (h : y.val * 64 + x.val < 2048) :
    s.pixelAt ⟨y.val * 64 + x.val, h⟩ = s.fb.pixel x y := by
  have hx : Fin.ofNat 64 ((y.val * 64 + x.val) % 64) = x := Fin.ext (by rw [Fin.val_ofNat]; omega)
  have hy : Fin.ofNat 32 ((y.val * 64 + x.val) / 64) = y := Fin.ext (by rw [Fin.val_ofNat]; omega)
  exact congrArg₂ s.fb.pixel hx hy

theorem soundActive_iff (s : State) : s.soundActive = true ↔ s.st ≠ 0 := bne_iff_ne

/-- The fault a code stands for: `faultCode` read backwards (R240). -/
def faultOfCode (code : BitVec 3) : Option Fault :=
  match code.toNat with
  | 1 => some .addressOutOfRange
  | 2 => some .stackUnderflow
  | 3 => some .stackOverflow
  | 4 => some .dataAddressOutOfRange
  | 5 => some .keyIndexOutOfRange
  | _ => none

theorem faultOfCode_faultCode : ∀ k, faultOfCode (faultCode k) = k
  | none => rfl
  | some .addressOutOfRange => rfl
  | some .stackUnderflow => rfl
  | some .stackOverflow => rfl
  | some .dataAddressOutOfRange => rfl
  | some .keyIndexOutOfRange => rfl

theorem faultCode_injective (k k' : Option Fault) (h : faultCode k = faultCode k') : k = k' := by
  rw [← faultOfCode_faultCode k, h, faultOfCode_faultCode]

theorem faultCode_le (k : Option Fault) : (faultCode k).toNat ≤ 5 := by
  rcases k with _ | k
  · decide
  · cases k <;> decide

/-- Settles O42: the linear index splits back into (x, y), and the table of codes can be read backwards. -/
theorem hostAccessors : Obligations.HostAccessors :=
  ⟨pixelAt_linear, soundActive_iff, fun _ _ => ⟨rfl, rfl⟩, rfl, rfl, rfl, rfl, rfl, rfl, faultCode_injective, faultCode_le⟩

end Sys2Proof.Machine
end

section
/-!
PROOFS, whole steps (40_cycle.md R90 to R100). `StepTo` names the ways a step can end, and every step ends in one of them
(`step_stepTo`). From it follow the result of a step (O8), the `MacroState` after it (O9) and which instruction must have run
for a piece of state to change (O34); the step in a Faulted state (O6) and in a final one (O41), and the step that runs the
word `withFetchWord` stores (O48), are single cases.
-/

namespace Sys2Proof.Machine

/-! ## The ways a step can end -/

/-- What the step of `s` can end in. The instruction of the last two cases is the one at pc; the frame of a completed one is
its footprint without the fault latch. -/
inductive StepTo (s : State) : State → Prop
  | inert (hfault : s.fault ≠ none) : StepTo s s
  | pollIdle (hfault : s.fault = none) (hwait : s.waiting = true) (hkey : s.lowestKey = none) : StepTo s s
  | pollKey (hfault : s.fault = none) (hwait : s.waiting = true) (k : RegIx) (hkey : s.lowestKey = some k) :
    StepTo s (s.writeV s.waitReg (BitVec.ofNat 8 k.val)).endWait
  | fetchFault (hfault : s.fault = none) (hwait : s.waiting = false) (hpc : 4095 ≤ s.pc.toNat) :
    StepTo s (s.withFault .addressOutOfRange)
  | raised (hready : s.FetchReady) (k : Fault) (hraise : raises s.advance (decodeWord s.fetchWord) = some k) :
    StepTo s (s.advance.withFault k)
  | completed {t : State} (hready : s.FetchReady) (hraise : raises s.advance (decodeWord s.fetchWord) = none)
    (hexec : exec (decodeWord s.fetchWord) s.advance = .next t)
    (hframe : Unchanged { footprint s.advance (decodeWord s.fetchWord) with fault := false } s.advance t) : StepTo s t

/-- Every step answers a next state, in one of the six ways. -/
theorem step_stepTo (s : State) : ∃ t, step s = .next t ∧ StepTo s t := by
  rcases step_cases s with ⟨hf, hstep⟩ | ⟨hf, hw, hstep⟩ | ⟨hf, hw, hpc, hstep⟩ | ⟨hf, hw, hpc, hstep⟩
  · exact ⟨s, hstep, .inert hf⟩
  · refine ⟨_, hstep, ?_⟩
    rcases keyWaitPoll_cases s with ⟨hkey, hpoll⟩ | ⟨k, hkey, hpoll⟩
    · rw [hpoll]
      exact .pollIdle hf hw hkey
    · rw [hpoll]
      exact .pollKey hf hw k hkey
  · exact ⟨_, hstep, .fetchFault hf hw hpc⟩
  · cases hraise : raises s.advance (decodeWord s.fetchWord) with
    | some k => exact ⟨_, hstep.trans (exec_of_raises hraise), .raised ⟨hf, hw, hpc⟩ k hraise⟩
    | none =>
      obtain ⟨t, ht, hframe⟩ := exec_of_raises_eq_none hraise
      exact ⟨t, hstep.trans ht, .completed ⟨hf, hw, hpc⟩ hraise ht hframe⟩

theorem stepTo_of_step {s t : State} (h : step s = .next t) : StepTo s t := by
  obtain ⟨u, hu, hto⟩ := step_stepTo s
  cases hu.symm.trans h
  exact hto

/-- A step with a latched fault is inert (R92). -/
theorem step_of_fault {s : State} (h : s.fault ≠ none) : step s = .next s := by
  simpa [h] using step_cases s

/-! ## The result and the `MacroState` are read off the latches (R32, R100) -/

section
variable {s t : State} {k : Fault}

theorem stepResult_of_fault_eq_some (h : t.fault = some k) : t.stepResult = .error k := by rw [State.stepResult, h]

theorem stepResult_of_fault_eq_none (h : t.fault = none) : t.stepResult = .ok () := by rw [State.stepResult, h]

theorem macroState_eq_faulted_iff : s.macroState = .faulted k ↔ s.fault = some k := by
  unfold State.macroState
  cases s.fault with
  | some j => simp
  | none => cases s.waiting <;> simp

theorem macroState_eq_awaitingKey_iff : s.macroState = .awaitingKey ↔ s.fault = none ∧ s.waiting = true := by
  unfold State.macroState
  cases s.fault with
  | some j => simp
  | none => cases s.waiting <;> simp

theorem macroState_eq_running_iff : s.macroState = .running ↔ s.fault = none ∧ s.waiting = false := by
  unfold State.macroState
  cases s.fault with
  | some j => simp
  | none => cases s.waiting <;> simp

end

/-! ## Which footprints name a piece of state (R21 to R31, R51) -/

section
variable {s : State} {i : Instr}

theorem footprint_index (h : (footprint s i).index ≠ false) : ∃ x nnn, i ∈ [.ldI nnn, .addI x, .ldF x] := by
  cases i with
  | ldI nnn => exact ⟨0, nnn, by simp⟩
  | addI x | ldF x => exact ⟨x, 0, by simp⟩
  | _ => exact absurd rfl h

theorem footprint_stack (h : (footprint s i).stack ≠ false) : ∃ nnn, i ∈ [.call nnn, .ret] := by
  cases i with
  | call nnn => exact ⟨nnn, by simp⟩
  | ret => exact ⟨0, by simp⟩
  | _ => exact absurd rfl h

theorem footprint_dt (h : (footprint s i).dt ≠ false) : ∃ x, i = .ldDTVx x := by
  cases i with
  | ldDTVx x => exact ⟨x, rfl⟩
  | _ => exact absurd rfl h

theorem footprint_st (h : (footprint s i).st ≠ false) : ∃ x, i = .ldSTVx x := by
  cases i with
  | ldSTVx x => exact ⟨x, rfl⟩
  | _ => exact absurd rfl h

theorem footprint_fb (h : (footprint s i).fb ≠ false) : ∃ x y n, i ∈ [.cls, .drw x y n] := by
  cases i with
  | cls => exact ⟨0, 0, 0, by simp⟩
  | drw x y n => exact ⟨x, y, n, by simp⟩
  | _ => exact absurd rfl h

theorem footprint_stored {a : Nat} (h : a ∈ (footprint s i).stored) : ∃ x, i ∈ [.ldB x, .stRegs x] := by
  cases i with
  | ldB x | stRegs x => exact ⟨x, by simp⟩
  | _ => exact absurd h List.not_mem_nil

theorem footprint_latch (h : (footprint s i).latch ≠ false) : ∃ x, i = .ldVxK x := by
  cases i with
  | ldVxK x => exact ⟨x, rfl⟩
  | _ => exact absurd rfl h

theorem footprint_draws (h : (footprint s i).draws ≠ false) : ∃ x nn, i = .rnd x nn := by
  cases i with
  | rnd x nn => exact ⟨x, nn, rfl⟩
  | _ => exact absurd rfl h

end

/-! ## The statements on single cases of a step -/

/-- Settles O6: the first case of a step. -/
theorem latchedFaultMakesTheStepInert : Obligations.LatchedFaultMakesTheStepInert := by
  intro s k h
  have hne : s.fault ≠ none := by rw [h]; nofun
  exact ⟨step_of_fault hne, stepResult_of_fault_eq_some h⟩

/-- Settles O41: a latched fault makes the step inert, and a jump to its own address gives back the pc of the fetch. -/
theorem finalStatesStay : Obligations.FinalStatesStay := by
  intro s h
  unfold State.isFinal at h
  split at h
  next k hmacro =>
    have hf := macroState_eq_faulted_iff.mp hmacro
    exact step_of_fault (by rw [hf]; nofun)
  next => cases h
  next hmacro =>
    obtain ⟨hf, hw⟩ := macroState_eq_running_iff.mp hmacro
    obtain ⟨hin, hjump⟩ := (Bool.and_eq_true _ _).mp h
    have hpc : s.pc.toNat ≤ 4094 := s.fetchInRange_iff.mp hin
    have hself : zext16 (s.pc.truncate 12) = s.pc := by
      apply BitVec.eq_of_toNat_eq
      rw [zext16, BitVec.toNat_setWidth_of_le (by decide), BitVec.toNat_setWidth]
      omega
    calc step s = exec (decodeWord s.fetchWord) s.advance := step_of_fetchReady ⟨hf, hw, hpc⟩
      _ = exec (.jp (s.pc.truncate 12)) s.advance := by rw [beq_iff_eq.mp hjump]
      _ = .next (s.advance.setPc s.pc) := by rw [exec_jp, hself]
      _ = .next s := rfl

/-! ### The word `withFetchWord` stores (log entry 11) -/

/-- The state `withFetchWord` stores the word in: ready to fetch. -/
def State.fetchable (s : State) : State :=
  (if s.fetchInRange then s else s.setPc (BitVec.ofNat 16 loadAddr)).clearFault.endWait

theorem fetchable_fetchReady (s : State) : s.fetchable.FetchReady := by
  refine ⟨rfl, rfl, ?_⟩
  unfold State.fetchable
  split_ifs with h
  · exact s.fetchInRange_iff.mp h
  · exact (by decide : (BitVec.ofNat 16 loadAddr).toNat ≤ 4094)

theorem withFetchWord_eq (s : State) (w : Word) :
    s.withFetchWord 16 w.toNat = s.fetchable.storeBytes s.fetchable.pc.toNat [highByte w, lowByte w] := by
  have hw : BitVec.ofNat 16 (w.toNat % 2 ^ 16) = w := by
    rw [Nat.mod_eq_of_lt w.isLt, BitVec.ofNat_toNat, BitVec.setWidth_eq]
  rw [State.withFetchWord, hw]
  rfl

/-- A word stored at pc is the one fetched there (R56, R64). -/
theorem fetchWord_storeBytes (s : State) (w : Word) :
    (s.storeBytes s.pc.toNat [highByte w, lowByte w]).fetchWord = w := by
  have hhi := s.readByte_storeBytes_inside s.pc.toNat 0 [highByte w, lowByte w] (Nat.zero_lt_succ 1)
  have hlo := s.readByte_storeBytes_inside s.pc.toNat 1 [highByte w, lowByte w] (Nat.lt_add_one 1)
  calc _ = wordOfBytes (highByte w) (lowByte w) := congrArg₂ wordOfBytes hhi hlo
    _ = w := wordOfBytes_highByte_lowByte w

/-- Settles O48: the state is ready to fetch, and fetches the word stored at its pc. -/
theorem withFetchWordRunsTheWordNext : Obligations.WithFetchWordRunsTheWordNext := by
  intro s w
  rw [withFetchWord_eq]
  have hready : (s.fetchable.storeBytes s.fetchable.pc.toNat [highByte w, lowByte w]).FetchReady :=
    ⟨rfl, rfl, (fetchable_fetchReady s).pcInRange⟩
  exact ⟨hready, by rw [step_of_fetchReady hready, fetchWord_storeBytes]⟩

/-! ## The statements on every case of a step -/

/-- Settles O8: the fault latch at the end of each way a step can end. -/
theorem everyStepCompletesWithItsResult : Obligations.EveryStepCompletesWithItsResult := by
  intro s
  obtain ⟨t, ht, hto⟩ := step_stepTo s
  have hadv : ({ s with pc := s.pc + 2 } : State) = s.advance := rfl
  refine ⟨t, ht, ?_⟩
  rw [hadv]
  cases hto with
  | inert hfault =>
    obtain ⟨k, hk⟩ := Option.ne_none_iff_exists'.mp hfault
    rw [stepResult_of_fault_eq_some hk, hk]
  | pollIdle hfault hwait => simp [stepResult_of_fault_eq_none, hfault, hwait]
  | pollKey hfault hwait => simp [stepResult_of_fault_eq_none, hfault, hwait]
  | fetchFault hfault hwait hpc =>
    have hres : (s.withFault .addressOutOfRange).stepResult = _ := stepResult_of_fault_eq_some rfl
    simp [hres, hfault, hwait, hpc]
  | raised hready k hraise =>
    have hres : (s.advance.withFault k).stepResult = _ := stepResult_of_fault_eq_some rfl
    simp [hres, hraise, hready.noFault, hready.notWaiting, Nat.not_le.mpr (Nat.lt_succ_of_le hready.pcInRange)]
  | completed hready hraise hexec hframe =>
    have hres : t.stepResult = _ := stepResult_of_fault_eq_none ((hframe.fault rfl).trans hready.noFault)
    simp [hres, hraise, hready.noFault, hready.notWaiting, Nat.not_le.mpr (Nat.lt_succ_of_le hready.pcInRange)]

/-! ### The `MacroState` (R99) -/

/-- A completed instruction other than FX0A leaves a Running state Running (R99). -/
theorem macroState_of_completed {i : Instr} {s t : State} (hf : s.fault = none) (hw : s.waiting = false)
    (hframe : Unchanged { footprint s i with fault := false } s t) (hi : ∀ x, i ≠ .ldVxK x) :
    t.macroState = .running := by
  have hlatch : (footprint s i).latch = false := by
    by_contra hne
    obtain ⟨x, hx⟩ := footprint_latch hne
    exact hi x hx
  exact macroState_eq_running_iff.mpr ⟨(hframe.fault rfl).trans hf, (hframe.waiting hlatch).trans hw⟩

/-- FX0A leads from a Running state to AwaitingKey (R99, R207). -/
theorem macroState_beginWait {s : State} (hf : s.fault = none) (x : RegIx) : (s.beginWait x).macroState = .awaitingKey :=
  macroState_eq_awaitingKey_iff.mpr ⟨hf, rfl⟩

/-- A step of a Running state that fetches (R99). -/
theorem step_macroState_of_fetchReady {s : State} (h : s.FetchReady) : ∃ t, step s = .next t ∧ t.macroState =
    (match raises s.advance (decodeWord s.fetchWord), decodeWord s.fetchWord with
     | some k, _ => .faulted k
     | none, .ldVxK _ => .awaitingKey
     | none, _ => .running) := by
  rw [step_of_fetchReady h]
  cases hraise : raises s.advance (decodeWord s.fetchWord) with
  | some k => exact ⟨_, exec_of_raises hraise, macroState_eq_faulted_iff.mpr rfl⟩
  | none =>
    obtain ⟨t, ht, hframe⟩ := exec_of_raises_eq_none hraise
    refine ⟨t, ht, ?_⟩
    split
    next heq => cases heq
    next x _ hi =>
      rw [hi] at ht
      cases ht
      exact macroState_beginWait h.noFault x
    next hne => exact macroState_of_completed (s := s.advance) h.noFault h.notWaiting hframe hne

/-- A step that waits for a key takes one where one is down (R99, R212). -/
theorem step_macroState_of_key {s : State} (hf : s.fault = none) (hw : s.waiting = true) {k : RegIx}
    (hkey : s.key[k] = true) : ∃ t, step s = .next t ∧ t.macroState = .running := by
  have hsome : s.lowestKey.isSome = true := List.find?_isSome.mpr ⟨k, List.mem_finRange k, hkey⟩
  obtain ⟨low, hlow⟩ := Option.isSome_iff_exists.mp hsome
  refine ⟨(s.writeV s.waitReg (BitVec.ofNat 8 low.val)).endWait, ?_, macroState_eq_running_iff.mpr ⟨hf, rfl⟩⟩
  rw [step_of_waiting hf hw, keyWaitPoll_of_lowestKey_eq_some hlow]

/-- Settles O9: the rows of the table, the steps by the `MacroState` they start in. -/
theorem macroStateTransitions : Obligations.MacroStateTransitions := by
  refine fun s => ⟨fun k h => ?_, fun h ⟨k, hkey⟩ => ?_, fun h hkey => ?_, fun h hpc => ?_, fun h hpc => ?_,
    fun image h => ?_, fun image h => ?_, rfl, fun _ => rfl⟩
  · have hf := macroState_eq_faulted_iff.mp h
    exact ⟨s, step_of_fault (by rw [hf]; nofun), h⟩
  · obtain ⟨hf, hw⟩ := macroState_eq_awaitingKey_iff.mp h
    exact step_macroState_of_key hf hw hkey
  · obtain ⟨hf, hw⟩ := macroState_eq_awaitingKey_iff.mp h
    refine ⟨s, ?_, h⟩
    rw [step_of_waiting hf hw, keyWaitPoll_of_lowestKey_eq_none (s.lowestKey_eq_none hkey)]
  · obtain ⟨hf, hw⟩ := macroState_eq_running_iff.mp h
    exact ⟨_, step_of_fetch_out_of_range hf hw hpc, macroState_eq_faulted_iff.mpr rfl⟩
  · obtain ⟨hf, hw⟩ := macroState_eq_running_iff.mp h
    exact step_macroState_of_fetchReady ⟨hf, hw, hpc⟩
  · rw [load_of_ok h]
    rfl
  · rw [load_of_imageTooLarge h]

/-! ### Which instruction writes which state (R21 to R31) -/

/-- Settles O34: a completed instruction has its footprint, and each of the other cases writes what its rule names. -/
theorem onlyTheNamedInstructionsWriteEachState : Obligations.OnlyTheNamedInstructionsWriteEachState := by
  intro s t hstep
  have hto := stepTo_of_step hstep
  refine ⟨?_, ?_, fun r hne => ?_, fun hne => ?_, fun hne => ?_, fun hne => ?_, fun hne => ?_, fun hne => ?_,
    fun a hne => ?_, fun hne => ?_, fun hne => ?_, fun hne => ?_, fun hne => ?_, fun hne => ?_⟩
  · cases hto with
    | completed _ _ _ hframe => exact hframe.key
    | _ => rfl
  · cases hto with
    | completed _ _ _ hframe => exact hframe.cfg
    | _ => rfl
  · cases hto with
    | completed _ _ _ hframe => exact .inr (by_contra fun hr => hne (hframe.regs r hr))
    | pollKey _ hwait => exact .inl ⟨hwait, by_contra fun hr => hne (s.readV_writeV_other _ hr)⟩
    | _ => exact absurd rfl hne
  · cases hto with
    | completed _ _ _ hframe => exact footprint_index fun h => hne (hframe.index h)
    | _ => exact absurd rfl hne
  · cases hto with
    | completed _ _ _ hframe => exact footprint_stack fun h => hne (hframe.stack h)
    | _ => exact absurd rfl hne
  · cases hto with
    | completed _ _ _ hframe => exact footprint_dt fun h => hne (hframe.dt h)
    | _ => exact absurd rfl hne
  · cases hto with
    | completed _ _ _ hframe => exact footprint_st fun h => hne (hframe.st h)
    | _ => exact absurd rfl hne
  · cases hto with
    | completed _ _ _ hframe => exact footprint_fb fun h => hne (hframe.fb h)
    | _ => exact absurd rfl hne
  · cases hto with
    | completed _ _ _ hframe => exact footprint_stored (by_contra fun ha => hne (hframe.mem a ha))
    | _ => exact absurd rfl hne
  · cases hto with
    | completed _ _ _ hframe => exact .inr (footprint_latch fun h => hne (hframe.waiting h))
    | pollKey _ hwait => exact .inl hwait
    | _ => exact absurd rfl hne
  · cases hto with
    | completed _ _ _ hframe => exact footprint_latch fun h => hne (hframe.waitReg h)
    | _ => exact absurd rfl hne
  · cases hto with
    | completed _ _ _ hframe => exact footprint_draws fun h => hne (hframe.draws h)
    | _ => exact absurd rfl hne
  · cases hto with
    | completed hready | raised hready => exact hready
    | _ => exact absurd rfl hne
  · cases hto with
    | completed _ _ _ hframe => exact absurd (hframe.fault rfl) hne
    | raised hready k hraise =>
      exact ⟨hready.noFault, hready.notWaiting, k, rfl, .inr ⟨hready.pcInRange, hraise⟩⟩
    | fetchFault hfault hwait hpc => exact ⟨hfault, hwait, _, rfl, .inl ⟨hpc, rfl⟩⟩
    | _ => exact absurd rfl hne

end Sys2Proof.Machine
end

section
/-!
PROOFS, the invariant of the core (10_state.md R25, R26, R32, R50). Every named update of the state keeps it under the
condition its field calls for; an instruction that runs after a fetch meets these conditions, so every step keeps it (O35),
and with it every operation of the host and every run (O37). It holds at power-on (O36).
-/

namespace Sys2Proof.Machine

/-! ## One rule per named update -/

namespace State.Inv

variable {s : State}

theorem writeV (h : s.Inv) (r : RegIx) (b : Byte) : (s.writeV r b).Inv := ⟨h.mem, h.pc, h.stack, h.depth, h.latch⟩
theorem setV (h : s.Inv) (v : RegFile) : (s.setV v).Inv := ⟨h.mem, h.pc, h.stack, h.depth, h.latch⟩
theorem setI (h : s.Inv) (w : Word) : (s.setI w).Inv := ⟨h.mem, h.pc, h.stack, h.depth, h.latch⟩
theorem setDt (h : s.Inv) (b : Byte) : (s.setDt b).Inv := ⟨h.mem, h.pc, h.stack, h.depth, h.latch⟩
theorem setSt (h : s.Inv) (b : Byte) : (s.setSt b).Inv := ⟨h.mem, h.pc, h.stack, h.depth, h.latch⟩
theorem setFb (h : s.Inv) (fb : Framebuffer) : (s.setFb fb).Inv := ⟨h.mem, h.pc, h.stack, h.depth, h.latch⟩
theorem countDraw (h : s.Inv) : s.countDraw.Inv := ⟨h.mem, h.pc, h.stack, h.depth, h.latch⟩
theorem writeKeys (h : s.Inv) (keys : Keypad) : (s.writeKeys keys).Inv := ⟨h.mem, h.pc, h.stack, h.depth, h.latch⟩
theorem endWait (h : s.Inv) : s.endWait.Inv := ⟨h.mem, h.pc, h.stack, h.depth, nofun⟩

theorem setPc (h : s.Inv) {w : Word} (hw : w.toNat ≤ 0x10FE) : (s.setPc w).Inv :=
  ⟨h.mem, hw, h.stack, h.depth, h.latch⟩

/-- A wait begins only where no fault is latched (R32). -/
theorem beginWait (h : s.Inv) (hf : s.fault = none) (r : RegIx) : (s.beginWait r).Inv :=
  ⟨h.mem, h.pc, h.stack, h.depth, fun _ => hf⟩

/-- A fault is latched only where no key wait is on (R32). -/
theorem withFault (h : s.Inv) (hw : s.waiting = false) (k : Fault) : (s.withFault k).Inv :=
  ⟨h.mem, h.pc, h.stack, h.depth, fun ht => nomatch hw.symm.trans ht⟩

theorem dropTop (h : s.Inv) : s.dropTop.Inv :=
  ⟨h.mem, h.pc, fun a ha => h.stack a (List.mem_of_mem_tail ha),
    fun d hd => (List.tail_sublist s.stack).length_le.trans (h.depth d hd), h.latch⟩

/-- A push keeps the depth where the stack is not full (R115). -/
theorem push (h : s.Inv) {w : Word} (hw : w.toNat ≤ 4096) (hroom : s.cfg.stackDepth ≠ some s.stack.length) :
    (s.push w).Inv where
  mem := h.mem
  pc := h.pc
  stack := List.forall_mem_cons.mpr ⟨hw, h.stack⟩
  depth d hd := by
    have hle := h.depth d hd
    have hne : s.stack.length ≠ d := fun heq => hroom (heq ▸ hd)
    rw [State.push_stack, List.length_cons]
    omega
  latch := h.latch

/-- A store inside the address space keeps memory canonical (R50). -/
theorem storeBytes (h : s.Inv) {a : Nat} {bs : List Byte} (ha : a + bs.length ≤ 4096) : (s.storeBytes a bs).Inv :=
  ⟨Memory.wf_writeAll _ _ _ bs h.mem ha, h.pc, h.stack, h.depth, h.latch⟩

/-- A skip from an address the fetch can leave stays below the bound of pc (R25). -/
theorem skipIf (h : s.Inv) (hpc : s.pc.toNat ≤ 4096) (c : Bool) : (s.skipIf c).Inv := by
  rw [s.skipIf_eq]
  refine h.setPc ?_
  split_ifs
  · bv_omega
  · exact h.pc

end State.Inv

/-! ## The targets of the jumps (R24, R25, R172) -/

theorem zext16_toNat (nnn : Addr12) : (zext16 nnn).toNat = nnn.toNat := BitVec.toNat_setWidth_of_le (by decide)

/-- R172: the sum of a 12-bit address and a byte fits in 16 bits. -/
theorem offsetTarget_toNat (nnn : Addr12) (v0 : Byte) : (offsetTarget nnn v0).toNat = nnn.toNat + v0.toNat := by
  rw [offsetTarget, BitVec.toNat_add, zext16_toNat, byteToWord_toNat]
  omega

/-! ## What keeps the invariant -/

/-- What an instruction finds after a fetch: the invariant, with pc at most 4096 (R94). -/
theorem advance_keeps_inv {s : State} (h : s.Inv) (hpc : s.pc.toNat ≤ 4094) :
    s.advance.Inv ∧ s.advance.pc.toNat ≤ 4096 := by
  have hadv : (s.pc + 2).toNat ≤ 4096 := by bv_omega
  exact ⟨h.setPc (by omega), hadv⟩

section
variable {s t : State}

/-- An instruction that raises nothing keeps the invariant. -/
theorem exec_keeps_inv {i : Instr} (h : s.Inv) (hpc : s.pc.toNat ≤ 4096) (hf : s.fault = none)
    (hraise : raises s i = none) (ht : exec i s = .next t) : t.Inv := by
  cases i with
  | cls => cases ht; exact h.setFb _
  | ret =>
    obtain ⟨top, rest, hstack⟩ := List.exists_cons_of_ne_nil (raises_ret_eq_none.mp hraise)
    cases (exec_ret_of_stack_eq_cons hstack).symm.trans ht
    have htop := h.stack top (hstack ▸ List.mem_cons_self)
    exact h.dropTop.setPc (by omega)
  | jp nnn =>
    cases ht
    exact h.setPc (by rw [zext16_toNat]; omega)
  | call nnn =>
    have hroom := raises_call_eq_none.mp hraise
    cases (exec_call_of_not_full hroom nnn).symm.trans ht
    exact (h.push hpc hroom).setPc (by rw [zext16_toNat]; omega)
  | jpV0 nnn =>
    cases ht
    exact h.setPc (by rw [offsetTarget_toNat]; omega)
  | seImm | sneImm | seReg | sneReg => cases ht; exact h.skipIf hpc _
  | ldImm | addImm | ldReg | orReg | andReg | xorReg | ldVxDT => cases ht; exact h.writeV _ _
  | addReg | subReg | shr | subn | shl => cases ht; exact (h.writeV _ _).writeV _ _
  | ldI | addI | ldF => cases ht; exact h.setI _
  | rnd => cases ht; exact (h.writeV _ _).countDraw
  | drw x y n =>
    cases (exec_drw_of_inRange (raises_drw_eq_none.mp hraise) x y).symm.trans ht
    exact (h.setFb _).writeV _ _
  | skp x | sknp x =>
    cases (keySkip_of_toNat_eq (k := ⟨_, raises_skp_eq_none.mp hraise⟩) rfl _).symm.trans ht
    exact h.skipIf hpc _
  | ldVxK x => cases ht; exact h.beginWait hf x
  | ldDTVx => cases ht; exact h.setDt _
  | ldSTVx => cases ht; exact h.setSt _
  | ldB x =>
    have hin := raises_ldB_eq_none.mp hraise
    cases (exec_ldB_of_le hin).symm.trans ht
    exact h.storeBytes (by rw [decimalDigits, List.length_cons, List.length_cons, List.length_singleton]; omega)
  | stRegs x =>
    have hin := raises_stRegs_eq_none.mp hraise
    cases (exec_stRegs_of_le hin).symm.trans ht
    exact h.storeBytes (by rw [s.length_firstRegs]; omega)
  | ldRegs x =>
    have hin := raises_ldRegs_eq_none.mp hraise
    cases (exec_ldRegs_of_le hin).symm.trans ht
    exact h.setV _
  | nop w => cases ht; exact h

/-- Every way a step can end keeps the invariant. -/
theorem stepTo_keeps_inv (h : s.Inv) (hto : StepTo s t) : t.Inv := by
  cases hto with
  | inert | pollIdle => exact h
  | pollKey => exact (h.writeV _ _).endWait
  | fetchFault _ hwait => exact h.withFault hwait _
  | raised hready k => exact (advance_keeps_inv h hready.pcInRange).1.withFault hready.notWaiting k
  | completed hready hraise hexec =>
    obtain ⟨hadv, hpc⟩ := advance_keeps_inv h hready.pcInRange
    exact exec_keeps_inv hadv hpc hready.noFault hraise hexec

theorem reset_inv : State.reset.Inv where
  mem := Memory.wf_nil _
  pc := by decide
  stack := nofun
  depth := nofun
  latch := nofun

/-- A load leaves the power-on registers, and an image that fits in memory (R270, R271). -/
theorem loaded_inv (s : State) {image : List Byte} (h : image.length ≤ maxImage) : (s.loaded image).Inv where
  mem := Memory.wf_writeAll _ _ _ _ (Memory.wf_nil _) (by unfold loadAddr memSize; unfold maxImage at h; omega)
  pc := reset_inv.pc
  stack := nofun
  depth := fun _ _ => Nat.zero_le _
  latch := nofun

theorem load_keeps_inv (h : s.Inv) (image : List Byte) : (s.load image).2.Inv := by
  rcases Nat.lt_or_ge 3584 image.length with hlen | hlen
  · rwa [load_of_lt hlen]
  · rw [load_of_le hlen]
    exact loaded_inv s hlen

/-- No step writes the parameters (R6). -/
theorem stepTo_keeps_cfg (h : StepTo s t) : t.cfg = s.cfg := by
  cases h with
  | completed _ _ _ hframe => exact hframe.cfg
  | _ => rfl

theorem applyOp_keeps_inv_cfg (op : HostOp) (h : s.Inv) : ∃ t, applyOp op s = .next t ∧ t.Inv ∧ t.cfg = s.cfg := by
  cases op with
  | load image =>
    exact ⟨_, rfl, load_keeps_inv h image, load_keeps_cfg s image⟩
  | step =>
    obtain ⟨t, ht, hto⟩ := step_stepTo s
    exact ⟨t, ht, stepTo_keeps_inv h hto, stepTo_keeps_cfg hto⟩
  | tickTimers => exact ⟨_, rfl, (h.setDt _).setSt _, rfl⟩
  | writeKeys keys => exact ⟨_, rfl, h.writeKeys keys, rfl⟩

end

/-! ## The statements -/

/-- Settles O35: along the ways a step can end. -/
theorem stepKeepsTheInvariant : Obligations.StepKeepsTheInvariant :=
  fun _ _ h hstep => stepTo_keeps_inv h (stepTo_of_step hstep)

/-- Settles O36: nothing is stored, stacked or latched at power-on, and pc is 0x200. -/
theorem resetMeetsTheInvariant : Obligations.ResetMeetsTheInvariant := reset_inv

/-- Settles O37, by induction on the list of operations. -/
theorem everyHostScheduleKeepsTheInvariant : Obligations.EveryHostScheduleKeepsTheInvariant := by
  intro ops
  induction ops with
  | nil => exact fun s h => ⟨s, rfl, h, rfl⟩
  | cons op ops ih =>
    intro s h
    obtain ⟨t, ht, htInv, htcfg⟩ := applyOp_keeps_inv_cfg op h
    obtain ⟨u, hu, huInv, hucfg⟩ := ih t htInv
    exact ⟨u, (runOps_cons_next ops ht).trans hu, huInv, hucfg.trans htcfg⟩

end Sys2Proof.Machine
end

section
/-!
PROOFS, the decoder and the encoder (30_encoding.md R71 to R79). The rows not decoded before make the opcode table whole
(O45). Packing an instruction and reading its fields gives the operands back, format by format, so that with the rows decoding
undoes encoding (O43); the other way round no word is lost (`encode_decodeWord`), and a fallback carries an unrecognized word
(O44).
-/

namespace Sys2Proof

/-! ## The fields of a packed word (R71) -/

section
variable (f n : Nibble) (x y : RegIx) (nn : Byte) (nnn : Addr12)

theorem fieldNNN_packNNN : fieldNNN (packNNN f nnn) = nnn := by
  apply BitVec.eq_of_toNat_eq
  rw [fieldNNN_toNat, packNNN_toNat]
  omega

theorem fieldX_packXNN : fieldX (packXNN f x nn) = x := by
  apply Fin.ext
  rw [fieldX_val, packXNN_toNat]
  omega

theorem fieldNN_packXNN : fieldNN (packXNN f x nn) = nn := by
  apply BitVec.eq_of_toNat_eq
  rw [fieldNN_toNat, packXNN_toNat]
  omega

theorem fieldX_packXYN : fieldX (packXYN f x y n) = x := by
  apply Fin.ext
  rw [fieldX_val, packXYN_toNat]
  omega

theorem fieldY_packXYN : fieldY (packXYN f x y n) = y := by
  apply Fin.ext
  rw [fieldY_val, packXYN_toNat]
  omega

theorem fieldN_packXYN : fieldN (packXYN f x y n) = n := by
  apply BitVec.eq_of_toNat_eq
  rw [fieldN_toNat, packXYN_toNat]
  omega

end

namespace Machine

/-! ## The rows not decoded before (R74, R76) -/

theorem decodesAs_call : DecodesAs 0xF000 0x2000 (fun w => .call (fieldNNN w)) := by
  intro w h; rw [decodeWord, fieldF_of_and_F000 h]; rfl

theorem decodesAs_jpV0 : DecodesAs 0xF000 0xB000 (fun w => .jpV0 (fieldNNN w)) := by
  intro w h; rw [decodeWord, fieldF_of_and_F000 h]; rfl

theorem decodesAs_rnd : DecodesAs 0xF000 0xC000 (fun w => .rnd (fieldX w) (fieldNN w)) := by
  intro w h; rw [decodeWord, fieldF_of_and_F000 h]; rfl

theorem decodesAs_drw : DecodesAs 0xF000 0xD000 (fun w => .drw (fieldX w) (fieldY w) (fieldN w)) := by
  intro w h; rw [decodeWord, fieldF_of_and_F000 h]; rfl

theorem decodesAs_addReg : DecodesAs 0xF00F 0x8004 (fun w => .addReg (fieldX w) (fieldY w)) :=
  decodesAs_of_decode8 rfl fun w hN => by rw [decode8, hN]; rfl

theorem decodesAs_subReg : DecodesAs 0xF00F 0x8005 (fun w => .subReg (fieldX w) (fieldY w)) :=
  decodesAs_of_decode8 rfl fun w hN => by rw [decode8, hN]; rfl

theorem decodesAs_shr : DecodesAs 0xF00F 0x8006 (fun w => .shr (fieldX w) (fieldY w)) :=
  decodesAs_of_decode8 rfl fun w hN => by rw [decode8, hN]; rfl

theorem decodesAs_subn : DecodesAs 0xF00F 0x8007 (fun w => .subn (fieldX w) (fieldY w)) :=
  decodesAs_of_decode8 rfl fun w hN => by rw [decode8, hN]; rfl

theorem decodesAs_shl : DecodesAs 0xF00F 0x800E (fun w => .shl (fieldX w) (fieldY w)) :=
  decodesAs_of_decode8 rfl fun w hN => by rw [decode8, hN]; rfl

/-- A row of family 0xE decodes as `decodeE` reads its NN byte. -/
theorem decodesAs_of_decodeE {p : Word} {f : Word → Instr} (hp : p.toNat / 4096 = 0xE)
    (hf : ∀ w, (fieldNN w).toNat = p.toNat % 256 → decodeE w = f w) : DecodesAs 0xF0FF p f := by
  intro w h
  obtain ⟨hF, hNN⟩ := fieldF_fieldNN_of_and_F0FF h
  calc decodeWord w = decodeE w := by rw [decodeWord, hF, hp]; rfl
    _ = f w := hf w hNN

theorem decodesAs_skp : DecodesAs 0xF0FF 0xE09E (fun w => .skp (fieldX w)) :=
  decodesAs_of_decodeE rfl fun w hNN => by rw [decodeE, hNN]; rfl

theorem decodesAs_sknp : DecodesAs 0xF0FF 0xE0A1 (fun w => .sknp (fieldX w)) :=
  decodesAs_of_decodeE rfl fun w hNN => by rw [decodeE, hNN]; rfl

theorem decodesAs_ldB : DecodesAs 0xF0FF 0xF033 (fun w => .ldB (fieldX w)) :=
  decodesAs_of_decodeF rfl fun w hNN => by rw [decodeF, hNN]; rfl

theorem decodesAs_stRegs : DecodesAs 0xF0FF 0xF055 (fun w => .stRegs (fieldX w)) :=
  decodesAs_of_decodeF rfl fun w hNN => by rw [decodeF, hNN]; rfl

theorem decodesAs_ldRegs : DecodesAs 0xF0FF 0xF065 (fun w => .ldRegs (fieldX w)) :=
  decodesAs_of_decodeF rfl fun w hNN => by rw [decodeF, hNN]; rfl

/-! ## The opcode table (R73, R74, R77) -/

/-- A property of every entry of the opcode table, family by family. -/
theorem forall_mem_opTable {P : OpRow × (Word → Instr) → Prop} :
    (∀ e ∈ opTable, P e) ↔
      (∀ e ∈ opTable0to7, P e) ∧ (∀ e ∈ opTable8, P e) ∧ (∀ e ∈ opTable9toD, P e) ∧ ∀ e ∈ opTableEF, P e := by
  simp only [opTable, List.forall_mem_append, and_assoc]

/-- Every row decodes to its own instruction. -/
theorem decodesAs_of_mem_opTable : ∀ e ∈ opTable, DecodesAs e.1.mask e.1.pattern e.2 := by
  rw [forall_mem_opTable]
  simp only [opTable0to7, opTable8, opTable9toD, opTableEF, List.forall_mem_cons]
  exact ⟨⟨decodesAs_cls, decodesAs_ret, decodesAs_jp, decodesAs_call, decodesAs_seImm, decodesAs_sneImm, decodesAs_seReg,
      decodesAs_ldImm, decodesAs_addImm, nofun⟩,
    ⟨decodesAs_ldReg, decodesAs_orReg, decodesAs_andReg, decodesAs_xorReg, decodesAs_addReg, decodesAs_subReg,
      decodesAs_shr, decodesAs_subn, decodesAs_shl, nofun⟩,
    ⟨decodesAs_sneReg, decodesAs_ldI, decodesAs_jpV0, decodesAs_rnd, decodesAs_drw, nofun⟩,
    ⟨decodesAs_skp, decodesAs_sknp, decodesAs_ldVxDT, decodesAs_ldVxK, decodesAs_ldDTVx, decodesAs_ldSTVx, decodesAs_addI,
      decodesAs_ldF, decodesAs_ldB, decodesAs_stRegs, decodesAs_ldRegs, nofun⟩⟩

/-- No row stands for the fallback. -/
theorem ne_nop_of_mem_opTable : ∀ e ∈ opTable, ∀ w w', e.2 w ≠ .nop w' := by
  rw [forall_mem_opTable]
  simp [opTable0to7, opTable8, opTable9toD, opTableEF]

theorem opTable_map_fst : opTable.map (·.1) = opRows := rfl

/-- The fallback is exact (R77): a word some row covers decodes to that row's instruction. -/
theorem decodeWord_eq_nop_iff (w : Word) : decodeWord w = .nop w ↔ recognized w = false := by
  refine ⟨fun h => ?_, decodeWord_of_not_recognized⟩
  by_contra hrec
  obtain ⟨row, hrow, hcovers⟩ := List.any_eq_true.mp (Bool.not_eq_false _ ▸ hrec)
  obtain ⟨e, he, rfl⟩ := List.mem_map.mp (opTable_map_fst ▸ hrow)
  have hdecode : decodeWord w = e.2 w := decodesAs_of_mem_opTable e he w (beq_iff_eq.mp hcovers)
  exact ne_nop_of_mem_opTable e he w w (hdecode.symm.trans h)

end Machine

/-! ### No word matches two rows -/

/-- Rows that differ at a digit both fix cover no common word. -/
theorem OpRow.apart_eq_false_of_covers {a b : OpRow} {w : Word} (ha : a.covers w = true) (hb : b.covers w = true) :
    a.apart b = false := by
  have hpa : w &&& a.mask = a.pattern := beq_iff_eq.mp ha
  have hpb : w &&& b.mask = b.pattern := beq_iff_eq.mp hb
  have hboth : a.pattern &&& b.mask = b.pattern &&& a.mask := by
    rw [← hpa, ← hpb, BitVec.and_assoc, BitVec.and_assoc, BitVec.and_comm a.mask]
  rw [OpRow.apart, hboth, bne_self_eq_false]

theorem opRows_apart : opRows.Pairwise (fun a b => a.apart b = true) := by decide

theorem length_filter_covers_le_one (w : Word) : (opRows.filter (·.covers w)).length ≤ 1 := by
  have happart := opRows_apart.filter (·.covers w)
  have hcovers : ∀ row ∈ opRows.filter (·.covers w), row.covers w = true := fun row h => (List.mem_filter.mp h).2
  generalize opRows.filter (·.covers w) = rows at happart hcovers ⊢
  match rows with
  | [] => exact Nat.zero_le 1
  | [_] => exact Nat.le_refl 1
  | a :: b :: rest =>
    have hab := (List.pairwise_cons.mp happart).1 b List.mem_cons_self
    have ha := hcovers a List.mem_cons_self
    have hb := hcovers b (List.mem_cons_of_mem a List.mem_cons_self)
    cases hab.symm.trans (OpRow.apart_eq_false_of_covers ha hb)

/-! ## Decoding undoes encoding, one lemma per format (R71) -/

section
open Machine Laws.EncodesInRow
variable (f n : Nibble) (x y : RegIx) (nn : Byte) (nnn : Addr12)

/-- A word of a row decodes to the instruction the row reads from it. -/
theorem decodeWord_of_covers {row : OpRow} {g : Word → Instr} {w : Word} (h : DecodesAs row.mask row.pattern g)
    (hw : row.covers w = true) : decodeWord w = g w :=
  h w (beq_iff_eq.mp hw)

variable {f n nn}

theorem decodeWord_packNNN {c : Addr12 → Instr} (h : DecodesAs 0xF000 (packNNN f 0) fun w => c (fieldNNN w)) :
    decodeWord (packNNN f nnn) = c nnn := by
  rw [decodeWord_of_covers h (covers_nnn f nnn), fieldNNN_packNNN]

theorem decodeWord_packXNN (nn : Byte) {c : RegIx → Byte → Instr}
    (h : DecodesAs 0xF000 (packXNN f 0 0) fun w => c (fieldX w) (fieldNN w)) :
    decodeWord (packXNN f x nn) = c x nn := by
  rw [decodeWord_of_covers h (covers_xnn f x nn), fieldX_packXNN, fieldNN_packXNN]

/-- Format X: NN is fixed. -/
theorem decodeWord_packXNN_fixed {c : RegIx → Instr} (h : DecodesAs 0xF0FF (packXNN f 0 nn) fun w => c (fieldX w)) :
    decodeWord (packXNN f x nn) = c x := by
  rw [decodeWord_of_covers h (covers_x f x nn), fieldX_packXNN]

theorem decodeWord_packXYN (n : Nibble) {c : RegIx → RegIx → Nibble → Instr}
    (h : DecodesAs 0xF000 (packXYN f 0 0 0) fun w => c (fieldX w) (fieldY w) (fieldN w)) :
    decodeWord (packXYN f x y n) = c x y n := by
  rw [decodeWord_of_covers h (covers_xyn f x y n), fieldX_packXYN, fieldY_packXYN, fieldN_packXYN]

/-- Format XY: N is fixed. -/
theorem decodeWord_packXYN_fixed {c : RegIx → RegIx → Instr}
    (h : DecodesAs 0xF00F (packXYN f 0 0 n) fun w => c (fieldX w) (fieldY w)) :
    decodeWord (packXYN f x y n) = c x y := by
  rw [decodeWord_of_covers h (covers_xy f x y n), fieldX_packXYN, fieldY_packXYN]

end

namespace Machine

/-- Decoding undoes encoding: each constructor by its row and its format. -/
theorem decodeWord_encode : ∀ i, WellFormed i = true → decodeWord (encode i) = i
  | .cls, _ => rfl
  | .ret, _ => rfl
  | .jp nnn, _ => decodeWord_packNNN nnn decodesAs_jp
  | .call nnn, _ => decodeWord_packNNN nnn decodesAs_call
  | .seImm x nn, _ => decodeWord_packXNN x nn decodesAs_seImm
  | .sneImm x nn, _ => decodeWord_packXNN x nn decodesAs_sneImm
  | .seReg x y, _ => decodeWord_packXYN_fixed x y decodesAs_seReg
  | .ldImm x nn, _ => decodeWord_packXNN x nn decodesAs_ldImm
  | .addImm x nn, _ => decodeWord_packXNN x nn decodesAs_addImm
  | .ldReg x y, _ => decodeWord_packXYN_fixed x y decodesAs_ldReg
  | .orReg x y, _ => decodeWord_packXYN_fixed x y decodesAs_orReg
  | .andReg x y, _ => decodeWord_packXYN_fixed x y decodesAs_andReg
  | .xorReg x y, _ => decodeWord_packXYN_fixed x y decodesAs_xorReg
  | .addReg x y, _ => decodeWord_packXYN_fixed x y decodesAs_addReg
  | .subReg x y, _ => decodeWord_packXYN_fixed x y decodesAs_subReg
  | .shr x y, _ => decodeWord_packXYN_fixed x y decodesAs_shr
  | .subn x y, _ => decodeWord_packXYN_fixed x y decodesAs_subn
  | .shl x y, _ => decodeWord_packXYN_fixed x y decodesAs_shl
  | .sneReg x y, _ => decodeWord_packXYN_fixed x y decodesAs_sneReg
  | .ldI nnn, _ => decodeWord_packNNN nnn decodesAs_ldI
  | .jpV0 nnn, _ => decodeWord_packNNN nnn decodesAs_jpV0
  | .rnd x nn, _ => decodeWord_packXNN x nn decodesAs_rnd
  | .drw x y n, _ => decodeWord_packXYN x y n decodesAs_drw
  | .skp x, _ => decodeWord_packXNN_fixed x decodesAs_skp
  | .sknp x, _ => decodeWord_packXNN_fixed x decodesAs_sknp
  | .ldVxDT x, _ => decodeWord_packXNN_fixed x decodesAs_ldVxDT
  | .ldVxK x, _ => decodeWord_packXNN_fixed x decodesAs_ldVxK
  | .ldDTVx x, _ => decodeWord_packXNN_fixed x decodesAs_ldDTVx
  | .ldSTVx x, _ => decodeWord_packXNN_fixed x decodesAs_ldSTVx
  | .addI x, _ => decodeWord_packXNN_fixed x decodesAs_addI
  | .ldF x, _ => decodeWord_packXNN_fixed x decodesAs_ldF
  | .ldB x, _ => decodeWord_packXNN_fixed x decodesAs_ldB
  | .stRegs x, _ => decodeWord_packXNN_fixed x decodesAs_stRegs
  | .ldRegs x, _ => decodeWord_packXNN_fixed x decodesAs_ldRegs
  | .nop _, hwf => decodeWord_of_not_recognized (Bool.not_eq_true' _ ▸ hwf)

/-- The first two bytes decode as their word (R56). -/
theorem decode_encodeBytes_append (i : Instr) (rest : List Byte) :
    decode (encodeBytes i ++ rest) = .ok (decodeWord (encode i), rest) := by
  simp only [encodeBytes, List.cons_append, List.nil_append, decode, wordOfBytes_highByte_lowByte]

/-- Only a fallback that carries a recognized word is ill-formed. -/
theorem wellFormed_of_ne_nop {i : Instr} (h : ∀ w, i ≠ .nop w) : WellFormed i = true := by
  cases i with
  | nop w => exact absurd rfl (h w)
  | _ => rfl

theorem wellFormed_decodeWord (w : Word) : WellFormed (decodeWord w) = true := by
  by_cases hnop : ∃ w', decodeWord w = .nop w'
  · obtain ⟨w', hw'⟩ := hnop
    have hw : w' = w := by simpa [hw', encode] using encode_decodeWord w
    rw [hw] at hw'
    rw [hw', WellFormed, (decodeWord_eq_nop_iff w).mp hw', Bool.not_false]
  · exact wellFormed_of_ne_nop (not_exists.mp hnop)

/-! ## The statements -/

/-- Settles O43: the two bytes are the word, and the word decodes by its row. -/
theorem decodeOfEncodeIsTheInstruction : Obligations.DecodeOfEncodeIsTheInstruction := by
  intro i rest hwf
  rw [decode_encodeBytes_append, decodeWord_encode i hwf]
  exact ⟨rfl, rfl⟩

/-- Settles O44: no word is lost by decoding it, and a fallback carries a word no row covers. -/
theorem encodeOfDecodeIsTheWord : Obligations.EncodeOfDecodeIsTheWord :=
  fun w => ⟨wellFormed_decodeWord w, encode_decodeWord w⟩

/-- Settles O45: the rows are pairwise apart, and the table lists them with the decodings proved one by one. -/
theorem decoderFollowsTheOpcodeTable : Obligations.DecoderFollowsTheOpcodeTable :=
  ⟨length_filter_covers_le_one, opTable_map_fst, fun row f h => decodesAs_of_mem_opTable (row, f) h, decodeWord_eq_nop_iff⟩

/-- Settles O46: each word is evaluated. -/
theorem sampleWordsDecode : Obligations.SampleWordsDecode := by
  unfold Obligations.SampleWordsDecode
  decide

end Machine

end Sys2Proof
end

section
/-!
PROOFS, the rows left: 2NNN (41_family_0_to_7.md), the rows of family 0x8 that set VF (42_family_8.md), BNNN and CXNN
(43_family_9_to_D.md), the key skips and the stores and loads at I (44_family_E_F.md). Each statement is the decoding of its
rows, the equation of the instruction on either side of its check, and the frame of the updates that equation names.
-/

namespace Sys2Proof.Machine

/-! ## A flag as a number (R10, R146 to R150) -/

section
variable (a b : Byte)

theorem flagByte_decide (p : Prop) [Decidable p] : flagByte (decide p) = if p then 1 else 0 := by
  simp only [flagByte, decide_eq_true_eq]

theorem lowBit_toNat : (flagByte (lowBit a)).toNat = a.toNat % 2 := by
  have hbit : lowBit a = decide (a.toNat % 2 = 1) := by simp [lowBit, BitVec.getLsbD, Nat.testBit_zero]
  rw [hbit, flagByte_decide]
  split_ifs with h
  · exact h.symm
  · exact (Nat.mod_two_ne_one.mp h).symm

theorem highBit_toNat : (flagByte (highBit a)).toNat = a.toNat / 128 := by
  have hlt := a.isLt
  have hbit : highBit a = decide (128 ≤ a.toNat) := by
    simp only [highBit, BitVec.getLsbD, Nat.testBit_eq_decide_div_mod_eq]
    congr 1
    exact propext (by omega)
  rw [hbit, flagByte_decide]
  split_ifs with h
  · exact (by omega : 1 = a.toNat / 128)
  · exact (by omega : 0 = a.toNat / 128)

/-- A byte difference is the integer difference mod 256 (R147, R149). -/
theorem toNat_sub_eq_emod : ((a - b).toNat : Int) = ((a.toNat : Int) - b.toNat) % 256 := by
  have ha := a.isLt
  have hb := b.isLt
  rw [BitVec.toNat_sub]
  omega

end

/-! ## Family 0x8 with a flag -/

/-- What a write of V[X] and VF leaves (R96): VF holds the flag, and V[X] the result unless X = F. -/
theorem writeWithFlag_spec (s : State) (x : RegIx) (b : Byte) (c : Bool) :
    (x ≠ 15 → (s.writeWithFlag x b c).readV x = b) ∧ (s.writeWithFlag x b c).readV 15 = flagByte c ∧
      Unchanged { regs := [x, 15] } s (s.writeWithFlag x b c) := by
  refine ⟨fun hx => ?_, ?_, unchanged_writeWithFlag s x b c⟩
  · rw [s.readV_writeWithFlag, if_neg hx, if_pos rfl]
  · rw [s.readV_writeWithFlag, if_pos rfl]

/-- Settles O17: byte addition is the sum mod 256, and the carry is the flag written last. -/
theorem addSetsTheCarry : Obligations.AddSetsTheCarry := by
  refine ⟨decodesAs_addReg, fun s x y => ?_⟩
  obtain ⟨hx, hflag, hframe⟩ := writeWithFlag_spec s x (s.readV x + s.readV y) (carryOut (s.readV x) (s.readV y))
  refine ⟨_, rfl, fun hne => ?_, hflag.trans (flagByte_decide _), hframe⟩
  rw [hx hne, BitVec.toNat_add]

/-- Settles O18: byte subtraction is the integer difference mod 256, and not-borrow is the flag written last. -/
theorem subtractSetsNotBorrow : Obligations.SubtractSetsNotBorrow := by
  refine ⟨decodesAs_subReg, decodesAs_subn, fun s x y => ⟨?_, ?_⟩⟩
  · obtain ⟨hx, hflag, hframe⟩ := writeWithFlag_spec s x (s.readV x - s.readV y) (notBorrow (s.readV x) (s.readV y))
    refine ⟨_, rfl, fun hne => ?_, hflag.trans (flagByte_decide _), hframe⟩
    rw [hx hne, toNat_sub_eq_emod]
  · obtain ⟨hx, hflag, hframe⟩ := writeWithFlag_spec s x (s.readV y - s.readV x) (notBorrow (s.readV y) (s.readV x))
    refine ⟨_, rfl, fun hne => ?_, hflag.trans (flagByte_decide _), hframe⟩
    rw [hx hne, toNat_sub_eq_emod]

/-- Settles O19: shifts by one are division and product by 2, and the lost bit is the flag written last. -/
theorem shiftsTakeVyAndSetTheLostBit : Obligations.ShiftsTakeVyAndSetTheLostBit := by
  refine ⟨decodesAs_shr, decodesAs_shl, fun s x y => ⟨?_, ?_⟩⟩
  · obtain ⟨hx, hflag, hframe⟩ := writeWithFlag_spec s x (s.readV y >>> 1) (lowBit (s.readV y))
    refine ⟨_, rfl, fun hne => ?_, (congrArg BitVec.toNat hflag).trans (lowBit_toNat _), hframe⟩
    rw [hx hne, BitVec.toNat_ushiftRight, Nat.shiftRight_eq_div_pow, pow_one]
  · obtain ⟨hx, hflag, hframe⟩ := writeWithFlag_spec s x (s.readV y <<< 1) (highBit (s.readV y))
    refine ⟨_, rfl, fun hne => ?_, (congrArg BitVec.toNat hflag).trans (highBit_toNat _), hframe⟩
    rw [hx hne, BitVec.toNat_shiftLeft, Nat.shiftLeft_eq, pow_one]

/-! ## Jumps and the draw of a free byte -/

/-- Settles O13: the call splits on whether the stack is full. -/
theorem callPushesAndJumps : Obligations.CallPushesAndJumps :=
  ⟨decodesAs_call, fun s nnn =>
    ⟨fun h => ⟨_, exec_call_of_not_full h nnn, zext16_eq_append nnn, rfl, ((Unchanged.refl _ s).push rfl _).setPc rfl _⟩,
      fun h => exec_call_of_full h nnn⟩⟩

/-- Settles O21: the sum of a 12-bit address and a byte is at most 0xFFF + 0xFF. -/
theorem jumpWithOffsetDoesNotWrap : Obligations.JumpWithOffsetDoesNotWrap := by
  refine ⟨decodesAs_jpV0, fun s nnn => ⟨_, rfl, ?_⟩⟩
  have hpc := offsetTarget_toNat nnn (s.readV 0)
  exact ⟨hpc, hpc.le.trans (by omega), (Unchanged.refl _ s).setPc rfl _⟩

/-- Settles O22: one write of V[X] and one draw counted, whatever the opaque byte is. -/
theorem randomTakesOneFreeDraw : Obligations.RandomTakesOneFreeDraw :=
  ⟨decodesAs_rnd, fun s x _ => ⟨_, rfl, s.readV_writeV_same x _, rfl,
    ((Unchanged.refl _ s).writeV (List.mem_singleton_self x) _).countDraw rfl⟩⟩

/-! ## The key skips -/

/-- A key skip with a key index in V[X]: it skips where the key is as `down` says. -/
theorem keySkip_spec {s : State} {x k : RegIx} (h : (s.readV x).toNat = k.val) (down : Bool) :
    ∃ t, keySkip x down s = .next t ∧ t.pc = (if s.key[k] = down then s.pc + 2 else s.pc) ∧
      Unchanged { pc := true } s t := by
  refine ⟨_, keySkip_of_toNat_eq h down, ?_, unchanged_skipIf s _⟩
  simp only [State.skipIf_eq, State.setPc_pc, beq_iff_eq]

/-- Settles O25: EX9E skips on `true` and EXA1 on `false`, both through one check of the key index. -/
theorem keySkips : Obligations.KeySkips := by
  refine ⟨decodesAs_skp, decodesAs_sknp, fun s x => ⟨fun k hk => ⟨?_, ?_⟩, fun h => ?_⟩⟩
  · exact keySkip_spec hk true
  · obtain ⟨t, ht, hpc, hframe⟩ := keySkip_spec hk false
    refine ⟨t, ht, hpc.trans ?_, hframe⟩
    cases s.key[k] <;> rfl
  · exact ⟨keySkip_of_above h true, keySkip_of_above h false⟩

/-! ## The stores and the load at I -/

/-- The byte stored k places from the start (R58). -/
theorem readByte_storeBytes_of_getElem? (s : State) (a : Nat) {bs : List Byte} {k : Nat} {b : Byte} (h : bs[k]? = some b) :
    (s.storeBytes a bs).readByte (a + k) = b := by
  rw [s.readByte_storeBytes, if_pos (Nat.le_add_right a k), Nat.add_sub_cancel_left, h, Option.getD_some]

/-- Division of bytes is division of their values (R209). -/
theorem decimalDigits_toNat (b : Byte) :
    (b / 100).toNat = b.toNat / 100 ∧ (b / 10 % 10).toNat = b.toNat / 10 % 10 ∧ (b % 10).toNat = b.toNat % 10 :=
  ⟨BitVec.toNat_udiv, BitVec.toNat_umod.trans (congrArg (· % 10) BitVec.toNat_udiv), BitVec.toNat_umod⟩

/-- Settles O28: the three stored bytes are the digits, read back one by one. -/
theorem storeDecimalDigits : Obligations.StoreDecimalDigits := by
  refine ⟨decodesAs_ldB, fun s x => ⟨fun h => ?_, fun h => ?_⟩⟩
  · have hdigit {k n : Nat} {b : Byte} (hb : (decimalDigits (s.readV x))[k]? = some b) (hn : b.toNat = n) :
        ((s.storeBytes s.I.toNat (decimalDigits (s.readV x))).readByte (s.I.toNat + k)).toNat = n := by
      rw [readByte_storeBytes_of_getElem? s _ hb, hn]
    obtain ⟨hhundreds, htens, hones⟩ := decimalDigits_toNat (s.readV x)
    exact ⟨_, exec_ldB_of_le h, hdigit (k := 0) rfl hhundreds, hdigit (k := 1) rfl htens,
      hdigit (k := 2) rfl hones, unchanged_storeBytes_I s (decimalDigits (s.readV x))⟩
  · exact exec_of_raises (if_pos h)

/-- Settles O29: the r-th stored byte is V[r], and X + 1 bytes are stored. -/
theorem storeRegisters : Obligations.StoreRegisters := by
  refine ⟨decodesAs_stRegs, fun s x => ⟨fun h => ?_, fun h => ?_⟩⟩
  · refine ⟨_, exec_stRegs_of_le h, fun r hr => ?_, unchanged_storeBytes_firstRegs s x⟩
    exact readByte_storeBytes_of_getElem? s _ ((s.firstRegs_getElem? x r.val).trans (dif_pos hr))
  · exact exec_of_raises (if_pos h)

/-- Settles O30: the block load takes memory up to X and keeps the registers above. -/
theorem loadRegisters : Obligations.LoadRegisters := by
  refine ⟨decodesAs_ldRegs, fun s x => ⟨fun h => ?_, fun h => ?_⟩⟩
  · refine ⟨_, exec_ldRegs_of_le h, fun r hr => ?_, fun r hr => ?_, unchanged_setV_regsFromMemory s x⟩
    · rw [s.readV_setV_regsFromMemory, if_pos hr]
    · rw [s.readV_setV_regsFromMemory, if_neg (not_le.mpr hr)]
  · exact exec_of_raises (if_pos h)

end Sys2Proof.Machine
end

section
/-!
PROOFS, DXYN (43_family_9_to_D.md R174 to R178). The sprite loop toggles the pixels of `State.spriteBit`, each at most once,
so a draw is one XOR of the framebuffer (O23), and two equal draws XOR it twice (O24).
-/

namespace Sys2Proof.Machine

/-- The pixels the rows of the sprite toggle are those with a 1 bit in the sprite (R174, R175). -/
theorem rowsHit_readBytes (s : State) (x y : RegIx) (n : Nibble) (px : Fin 64) (py : Fin 32) :
    Drawing.rowsHit (anchorX (s.readV x)) (anchorY (s.readV y)) 0 (s.readBytes s.I.toNat n.toNat) px py =
      s.spriteBit x y n px py := by
  simp only [Drawing.rowsHit, State.spriteBit, Drawing.column, Drawing.line, anchorX, anchorY, Nat.mod_mod,
    State.readBytes_getElem?, Nat.sub_zero, Nat.zero_le, decide_true, Bool.true_and]
  split_ifs with hrow
  · rw [Option.any_some, decide_eq_true hrow, Bool.and_true]
  · rw [Option.any_none, decide_eq_false hrow, Bool.and_false, Bool.false_and]

theorem flagByte_eq_one_iff (c : Bool) : flagByte c = 1 ↔ c = true := by cases c <;> decide

theorem flagByte_eq_zero_or_one (c : Bool) : flagByte c = 0 ∨ flagByte c = 1 := by cases c <;> decide

section
variable {s t : State} {x y : RegIx} {n : Nibble}

/-- The drawing in closed form: an XOR, and a collision where the sprite meets a pixel that was on (R174, R176). -/
theorem spriteDrawing_spec (s : State) (x y : RegIx) (n : Nibble) :
    (∀ px py, (s.spriteDrawing x y n).fb.pixel px py = (s.fb.pixel px py ^^ s.spriteBit x y n px py)) ∧
    ((s.spriteDrawing x y n).collided = true ↔ ∃ px py, s.spriteBit x y n px py = true ∧ s.fb.pixel px py = true) := by
  have hheight : (s.readBytes s.I.toNat n.toNat).length ≤ 32 := by
    rw [s.length_readBytes]
    omega
  have hsprite := drawSprite_spec (anchorX (s.readV x)) (anchorY (s.readV y)) (s.readBytes s.I.toNat n.toNat) s.fb hheight
  simp only [rowsHit_readBytes] at hsprite
  exact hsprite

/-- What a completed draw leaves. -/
theorem exec_drw_spec (h : n = 0 ∨ s.I.toNat + n.toNat - 1 ≤ 4095) (x y : RegIx) :
    ∃ t, exec (.drw x y n) s = .next t ∧
      (∀ px py, t.fb.pixel px py = (s.fb.pixel px py ^^ s.spriteBit x y n px py)) ∧
      (t.readV 15 = 0 ∨ t.readV 15 = 1) ∧
      (t.readV 15 = 1 ↔ ∃ px py, s.spriteBit x y n px py = true ∧ s.fb.pixel px py = true) ∧
      Unchanged { regs := [15], fb := true } s t := by
  obtain ⟨hpixel, hcollided⟩ := spriteDrawing_spec s x y n
  have hVF : ((s.setFb (s.spriteDrawing x y n).fb).writeV VF (flagByte (s.spriteDrawing x y n).collided)).readV 15 =
      flagByte (s.spriteDrawing x y n).collided := State.readV_writeV_same _ VF _
  refine ⟨_, exec_drw_of_inRange h x y, hpixel, ?_, ?_, ?_⟩
  · rw [hVF]
    exact flagByte_eq_zero_or_one _
  · rw [hVF, flagByte_eq_one_iff, hcollided]
  · exact ((Unchanged.refl _ s).setFb rfl _).writeV (List.mem_singleton_self VF) _

/-- States that agree on the anchor, on I and on memory have the same sprite. -/
theorem spriteBit_congr (hx : t.readV x = s.readV x) (hy : t.readV y = s.readV y) (hI : t.I = s.I)
    (hmem : ∀ a, t.readByte a = s.readByte a) (px : Fin 64) (py : Fin 32) :
    t.spriteBit x y n px py = s.spriteBit x y n px py := by
  simp only [State.spriteBit, hx, hy, hI, hmem]

end

/-- Settles O23: a completed draw is the drawing's closed form; the range check decides whether it completes. -/
theorem drawXorsTheSpriteAndSetsCollision : Obligations.DrawXorsTheSpriteAndSetsCollision :=
  ⟨decodesAs_drw, fun _ x y _ => ⟨fun h => exec_drw_spec h x y, fun h => exec_drw_of_outOfRange h x y⟩⟩

/-- Settles O24: the second draw XORs the same bits, and meets a pixel that is on where the first turned one on. -/
theorem drawingTwiceRestoresTheFramebuffer : Obligations.DrawingTwiceRestoresTheFramebuffer := by
  intro s t u x y n hin hst hx hy htu
  obtain ⟨t', ht, htpixel, -, -, htframe⟩ := exec_drw_spec hin x y
  cases ht.symm.trans hst
  have hin' : n = 0 ∨ t.I.toNat + n.toNat - 1 ≤ 4095 := by rwa [htframe.index rfl]
  obtain ⟨u', hu, hupixel, -, huVF, huframe⟩ := exec_drw_spec hin' x y
  cases hu.symm.trans htu
  have hbit : ∀ px py, t.spriteBit x y n px py = s.spriteBit x y n px py :=
    spriteBit_congr hx hy (htframe.index rfl) fun a => htframe.mem a List.not_mem_nil
  refine ⟨Framebuffer.ext_pixel fun px py => ?_, (huframe.fault rfl).trans (htframe.fault rfl), ?_⟩
  · rw [hupixel, htpixel, hbit, Bool.xor_assoc, Bool.xor_self, Bool.xor_false]
  · rw [huVF]
    refine exists_congr fun px => exists_congr fun py => ?_
    rw [hbit, htpixel]
    refine and_congr_right fun hone => ?_
    rw [hone, Bool.xor_true, Bool.not_eq_true']

end Sys2Proof.Machine
end

section
/-!
PROOFS, noninterference and representation. An instruction runs alike beside another value in ST or in the count of draws
(O38, O39); FX18 and CXNN are the two that touch them. Canonical memories are determined by what they read (O47).
-/

namespace Sys2Proof.Machine

/-! ## ST and the count of draws (10_state.md R27, 43_family_9_to_D.md R173) -/

/-- `s` with other values in ST and in the count of draws. -/
def State.withStDraws (s : State) (b : Byte) (k : Nat) : State := { s with st := b, draws := k }

theorem readBytes_withStDraws (s : State) (b : Byte) (k a n : Nat) :
    (s.withStDraws b k).readBytes a n = s.readBytes a n := by
  induction n generalizing a with
  | zero => rfl
  | succ n ih => rw [State.readBytes, ih]; rfl

theorem spriteDrawing_withStDraws (s : State) (b : Byte) (k : Nat) (x y : RegIx) (n : Nibble) :
    (s.withStDraws b k).spriteDrawing x y n = s.spriteDrawing x y n := by
  rw [State.spriteDrawing, readBytes_withStDraws]
  rfl

theorem skipIf_withStDraws (s : State) (b : Byte) (k : Nat) (c : Bool) :
    (s.withStDraws b k).skipIf c = (s.skipIf c).withStDraws b k := by
  cases c <;> rfl

theorem raises_withStDraws (s : State) (b : Byte) (k : Nat) (i : Instr) : raises (s.withStDraws b k) i = raises s i := rfl

/-- Every instruction but FX18 and CXNN does the same beside other values in ST and in the count of draws, and keeps them. -/
theorem exec_withStDraws {i : Instr} {s t : State} (hst : ∀ x, i ≠ .ldSTVx x) (hrnd : ∀ x nn, i ≠ .rnd x nn)
    (h : exec i s = .next t) (b : Byte) (k : Nat) : exec i (s.withStDraws b k) = .next (t.withStDraws b k) := by
  cases hraise : raises s i with
  | some f =>
    cases (exec_of_raises hraise).symm.trans h
    exact exec_of_raises ((raises_withStDraws s b k i).trans hraise)
  | none =>
    cases i with
    | ldSTVx x => exact absurd rfl (hst x)
    | rnd x nn => exact absurd rfl (hrnd x nn)
    | ret =>
      obtain ⟨top, rest, hstack⟩ := List.exists_cons_of_ne_nil (raises_ret_eq_none.mp hraise)
      cases (exec_ret_of_stack_eq_cons hstack).symm.trans h
      exact exec_ret_of_stack_eq_cons (s := s.withStDraws b k) hstack
    | call nnn =>
      have hroom := raises_call_eq_none.mp hraise
      cases (exec_call_of_not_full hroom nnn).symm.trans h
      exact exec_call_of_not_full (s := s.withStDraws b k) hroom nnn
    | drw x y n =>
      have hin := raises_drw_eq_none.mp hraise
      cases (exec_drw_of_inRange hin x y).symm.trans h
      rw [exec_drw_of_inRange (s := s.withStDraws b k) hin x y, spriteDrawing_withStDraws]
      rfl
    | skp x | sknp x =>
      have hkey : (s.readV x).toNat = (⟨_, raises_skp_eq_none.mp hraise⟩ : RegIx).val := rfl
      cases (keySkip_of_toNat_eq hkey _).symm.trans h
      exact (keySkip_of_toNat_eq (s := s.withStDraws b k) hkey _).trans (by rw [skipIf_withStDraws]; rfl)
    | seImm | sneImm | seReg | sneReg =>
      cases h
      exact congrArg _ (skipIf_withStDraws s b k _)
    | ldB x =>
      have hin := raises_ldB_eq_none.mp hraise
      cases (exec_ldB_of_le hin).symm.trans h
      exact exec_ldB_of_le (s := s.withStDraws b k) hin
    | stRegs x =>
      have hin := raises_stRegs_eq_none.mp hraise
      cases (exec_stRegs_of_le hin).symm.trans h
      exact exec_stRegs_of_le (s := s.withStDraws b k) hin
    | ldRegs x =>
      have hin := raises_ldRegs_eq_none.mp hraise
      cases (exec_ldRegs_of_le hin).symm.trans h
      exact exec_ldRegs_of_le (s := s.withStDraws b k) hin
    | _ => cases h; rfl

/-- An instruction stays within its footprint (R98). -/
theorem unchanged_of_exec {i : Instr} {s t : State} (h : exec i s = .next t) : Unchanged (footprint s i) s t := by
  obtain ⟨t', ht, hframe⟩ := everyInstructionKeepsItsFrame i s
  cases ht.symm.trans h
  exact hframe

theorem exec_keeps_draws {i : Instr} {s t : State} (hrnd : ∀ x nn, i ≠ .rnd x nn) (h : exec i s = .next t) :
    t.draws = s.draws := by
  refine (unchanged_of_exec h).draws (by_contra fun hne => ?_)
  obtain ⟨x, nn, hi⟩ := footprint_draws hne
  exact hrnd x nn hi

theorem exec_keeps_st {i : Instr} {s t : State} (hst : ∀ x, i ≠ .ldSTVx x) (h : exec i s = .next t) : t.st = s.st := by
  refine (unchanged_of_exec h).st (by_contra fun hne => ?_)
  obtain ⟨x, hi⟩ := footprint_st hne
  exact hst x hi

/-- Settles O38: another ST passes through CXNN too, and FX18 writes over it. -/
theorem noInstructionReadsTheSoundTimer : Obligations.NoInstructionReadsTheSoundTimer := by
  refine fun i s t b h => ⟨fun hst => ?_, ?_⟩
  · by_cases hrnd : ∃ x nn, i = .rnd x nn
    · obtain ⟨x, nn, rfl⟩ := hrnd
      cases h
      rfl
    · have hrnd' : ∀ x nn, i ≠ .rnd x nn := fun x nn hi => hrnd ⟨x, nn, hi⟩
      have hrun : exec i { s with st := b } = .next (t.withStDraws b s.draws) := exec_withStDraws hst hrnd' h b s.draws
      rw [hrun, ← exec_keeps_draws hrnd' h]
      rfl
  · rintro x rfl
    cases h
    rfl

/-- Settles O39: another count of draws passes through FX18 too. -/
theorem onlyRandomDependsOnTheDraws : Obligations.OnlyRandomDependsOnTheDraws := by
  refine fun i s t k hrnd h => ⟨exec_keeps_draws hrnd h, ?_⟩
  by_cases hst : ∃ x, i = .ldSTVx x
  · obtain ⟨x, rfl⟩ := hst
    cases h
    rfl
  · have hst' : ∀ x, i ≠ .ldSTVx x := fun x hi => hst ⟨x, hi⟩
    have hrun : exec i { s with draws := k } = .next (t.withStDraws s.st k) := exec_withStDraws hst' hrnd h s.st k
    rw [hrun, ← exec_keeps_st hst' h]
    rfl

/-! ## Canonical memories (log entry 5) -/

namespace Memory

variable {font : Vector Byte 80} {m m' : Memory}

/-- A listed cell of a sorted memory is what its address reads as. -/
theorem lookup_of_mem (h : m.Pairwise (fun c d => c.1 < d.1)) {c : Host.Cell} (hc : c ∈ m) : lookup m c.1 = some c.2 := by
  induction m with
  | nil => cases hc
  | cons d m ih =>
    obtain ⟨hd, hm⟩ := List.pairwise_cons.mp h
    rcases List.mem_cons.mp hc with rfl | hc
    · exact if_pos rfl
    · rw [lookup, if_neg (hd c hc).ne]
      exact ih hm hc

theorem mem_of_lookup {a : Nat} {b : Byte} (h : lookup m a = some b) : (a, b) ∈ m := by
  induction m with
  | nil => cases h
  | cons d m ih =>
    rw [lookup] at h
    split_ifs at h with hd
    · cases h
      exact hd ▸ List.mem_cons_self
    · exact List.mem_cons_of_mem d (ih h)

/-- The cells of a canonical memory are the bytes that differ from what an unlisted address reads as. -/
theorem mem_iff_read (h : wf font m) (c : Host.Cell) : c ∈ m ↔ read font m c.1 = c.2 ∧ c.2 ≠ initByte font c.1 := by
  obtain ⟨hsorted, hcells⟩ := h
  constructor
  · intro hc
    rw [read, lookup_of_mem hsorted hc]
    exact ⟨rfl, (hcells c hc).2⟩
  · rintro ⟨hread, hne⟩
    cases hlook : lookup m c.1 with
    | some b =>
      rw [read, hlook] at hread
      exact mem_of_lookup (hlook.trans (congrArg some hread))
    | none =>
      rw [read, hlook] at hread
      exact absurd hread.symm hne

/-- Two canonical memories that read alike have the same cells, in the same rising order. -/
theorem eq_of_read_eq (h : wf font m) (h' : wf font m') (hread : ∀ a, read font m a = read font m' a) : m = m' := by
  have hirrefl : Std.Irrefl (fun c d : Host.Cell => c.1 < d.1) := ⟨fun c => Nat.lt_irrefl c.1⟩
  have hantisymm : Std.Antisymm (fun c d : Host.Cell => c.1 < d.1) := ⟨fun c d hcd hdc => absurd hcd (Nat.lt_asymm hdc)⟩
  refine List.Pairwise.eq_of_mem_iff h.1 h'.1 fun c => ?_
  rw [mem_iff_read h, mem_iff_read h', hread]

end Memory

/-- Settles O47: what a canonical memory reads determines its cells, and their order is rising. -/
theorem equalMemoriesAreEqualData : Obligations.EqualMemoriesAreEqualData := fun _ _ _ => Memory.eq_of_read_eq

end Sys2Proof.Machine
end
